-- ==== Sys2Proof/Config.lean ====
section
/-! DEFINITION. What an implementation fixes: the parameters of 00_scope.md rules R9 and R10.

`DEPTH`, `DATA_W`, `CLOCKING` and `SYNC_STAGES` are parameters OF AN INSTANCE: the machine reads them from its state
(`State.capacity`, `State.dataW`, the shape of `State.crossing`, the length of its chains), so every statement over all
states is a statement over all their values. `LINE_BYTES` is an argument of the state image, its one use (R10). This file
only names the one instance `State.reset` starts from. -/

namespace Sys2Proof

/-- `CLOCKING` (R10): the single-clock form or the dual-clock form. -/
inductive Clocking
  | sync
  | async
  deriving DecidableEq, Repr

namespace Config

/-- The parameters of one instance (R9, R10). `stages` is ignored when `clocking` is `sync`; `lineBytes` is used
only by the state image of R66. -/
structure Params where
  depth     : BitVec 64
  dataW     : Nat
  clocking  : Clocking
  stages    : Nat
  lineBytes : Nat
  deriving DecidableEq, Repr

/-- The instance `State.reset` is: `DATA_W` at the value R10 sets, `CLOCKING`, `SYNC_STAGES` and `LINE_BYTES` at its
defaults. DESIGN CHOICE (unsafe, notes/assumptions/1.md): R9 gives `DEPTH` no default and the model must start
somewhere; `DEPTH = 4` is one of the document's own test values. No statement rests on it. -/
def params : Params := { depth := 4, dataW := 64, clocking := .async, stages := 2, lineBytes := 64 }

end Config

end Sys2Proof
end

