-- ==== Sys2Proof/Word.lean ====
section
/-! DEFINITION. The word types: 64-bit cursors and constants (R12), slot contents (R22), bytes of the state image (R63).
`+`, `-`, `&&&`, `^^^`, `>>>` on `Word` are the spec's `+64`, `-64`, `&`, `^`, `>>`. -/

namespace Sys2Proof

/-- A cursor, a view, a gray register or a constant: an unsigned 64-bit value (R12).
`CURSOR_W = 64` is "fixed by the document" and no parameter (R10). -/
abbrev Word := BitVec 64

/-- The content of one slot: "an unsigned integer from `0` to `2^DATA_W - 1`" (R22). `DATA_W` is the instance's
(`State.dataW`, R10), so the bound is checked where a value comes in; no rule computes with a value (R45). -/
abbrev Slot := Nat

/-- A byte of the state image (R63). -/
abbrev Byte := BitVec 8

end Sys2Proof
end

