-- ==== Sys2Proof/Machine/Gray.lean ====
section
/-! DEFINITION. The reflected binary gray code of 43_sync.md (R191 to R193). -/

namespace Sys2Proof.Machine

/-- `b ^ (b >> k)`, the one building block of both conversions. -/
def xorShift (k : Nat) (b : Word) : Word := b ^^^ (b >>> k)

/-- `bin2gray(b) = b ^ (b >> 1)` (R192). -/
def bin2gray (b : Word) : Word := xorShift 1 b

/-- `gray2bin(g)`, in the third form of R193: shifts by 1, 2, 4, 8, 16 and 32 in turn. -/
def gray2bin (g : Word) : Word :=
  xorShift 32 (xorShift 16 (xorShift 8 (xorShift 4 (xorShift 2 (xorShift 1 g)))))

end Sys2Proof.Machine
end

