-- ==== Sys2Proof/Syntax.lean ====
section
/-! DEFINITION. The whole syntax: the eight operations of spec/opcode_table.json, the command and response words of
the ports (30_encoding.md) and the inputs the outside world and the synchronising agents offer, one per step. -/

namespace Sys2Proof

/-- The operations, one constructor per row of spec/opcode_table.json, in its order. -/
inductive Instr
  /-- `CONSTRUCT(c)`, agent `E` (R120). -/
  | construct (c : Word)
  /-- `RESET`, agent `E` (R240). -/
  | reset
  /-- `PUSH(v)`, agent `P` (R135). -/
  | push (v : Slot)
  /-- `P_IDLE`, agent `P` (R147); `wr_data` is ignored, so it is no operand. -/
  | pIdle
  /-- `POP`, agent `C` (R160). -/
  | pop
  /-- `C_IDLE`, agent `C` (R172). -/
  | cIdle
  /-- `SYNC_TAIL(d)`, agent `ST` (R185). -/
  | syncTail (d : Nat)
  /-- `SYNC_HEAD(d)`, agent `SH` (R186). -/
  | syncHead (d : Nat)
  deriving DecidableEq, Repr

/-- The agents of R14. -/
inductive Agent
  | producer
  | consumer
  | st
  | sh
  | environment
  deriving DecidableEq, Repr

/-- The agent that performs an operation (R14, R219). -/
def Instr.agent : Instr → Agent
  | .construct _ => .environment
  | .reset => .environment
  | .push _ => .producer
  | .pIdle => .producer
  | .pop => .consumer
  | .cIdle => .consumer
  | .syncTail _ => .st
  | .syncHead _ => .sh

/-- The command formats (R93, R95, R97), and `none`, the format of the two internal steps (R100). -/
inductive Format
  | k
  | rs
  | pc
  | cc
  | none
  deriving DecidableEq, Repr

/-- The width of a format in bits, in an instance with `DATA_W = dw` (R93, R95, R97, R100, R103). -/
def Format.width (dw : Nat) : Format → Nat
  | .k => 64
  | .rs => 1
  | .pc => 1 + dw
  | .cc => 1
  | .none => 0

/-- The value of one port's request inputs (or of the elaboration parameter, or of the reset input) as a number,
bit 0 the least significant (R12, R92). -/
structure CommandWord where
  format : Format
  bits   : Nat
  deriving DecidableEq, Repr

/-- What the producer group's outputs show in one cycle (R94). -/
structure PResponse where
  pushOk : Bool
  full   : Bool
  deriving DecidableEq, Repr

/-- What the consumer group's outputs show in one cycle (R96). -/
structure CResponse where
  popOk  : Bool
  empty  : Bool
  rdData : Slot
  deriving DecidableEq, Repr

/-- One input: what one step of the machine is given. Which agent moves next, and every choice the spec leaves to a
step (the `d` of R185 and R186, the outcome of a sample in R196), is plain data here, so a statement over all states
holds for every interleaving and every choice. A `pc` is a producer command word, a `cc` a consumer command word, each
as a number (R93, R95). -/
inductive Input
  /-- One command word at one port group: one atomic step of `E`, `P` or `C` (R14, R92). -/
  | command (w : CommandWord)
  /-- The agent `ST` takes `SYNC_TAIL(d)` (R185). -/
  | st (d : Nat)
  /-- The agent `SH` takes `SYNC_HEAD(d)` (R186). -/
  | sh (d : Nat)
  /-- `CLOCKING = SYNC`: one cycle of `clk` with the commands of both port groups (R92, R258). -/
  | clk (pc cc : Nat)
  /-- `CLOCKING = ASYNC`: the rising edge of `wclk` that ends a producer cycle (R145, R195); `late`: the sample
  resolves to the value before the source's last change where R196 allows it. -/
  | wclk (pc : Nat) (late : Bool)
  /-- `CLOCKING = ASYNC`: the rising edge of `rclk` that ends a consumer cycle (R170, R194). -/
  | rclk (cc : Nat) (late : Bool)
  /-- The block's reset is low while the ports show these command words: it goes low, or is still low (R241, R244,
  R246). -/
  | resetLow (pc cc : Nat)
  /-- The block's reset goes high again (R242, R245 step 4), whatever edges came since it went low
  (notes/assumptions/17.md). -/
  | resetHigh
  deriving DecidableEq, Repr

end Sys2Proof
end

