-- ==== Sys2Proof/WellFormed.lean ====
section
/-! DEFINITION. Which parameters, operations and command words are well formed. Every check has an ill-formed term
it refuses in Sys2Proof/Tests/Slice0.lean. -/

namespace Sys2Proof

/-- R9: `DEPTH >= 2` and `DEPTH & (DEPTH - 1) == 0`, over 64 bits. -/
def legalCapacity (c : Word) : Bool := decide (2 ≤ c) && decide (c &&& (c - 1) = 0)

/-- R10: `DATA_W >= 1`. -/
def legalDataW (n : Nat) : Bool := decide (1 ≤ n)

/-- R10: `SYNC_STAGES` is not less than 2; it is ignored in the form `SYNC`. -/
def legalStages (k : Clocking) (n : Nat) : Bool := decide (k = .sync) || decide (2 ≤ n)

/-- R10: `LINE_BYTES` is a power of two not less than 8. -/
def legalLineBytes (n : Nat) : Bool := decide (8 ≤ n) && decide (n &&& (n - 1) = 0)

/-- The parameters of an instance are legal (R9, R10). -/
def Config.Params.wf (p : Config.Params) : Bool :=
  legalCapacity p.depth && legalDataW p.dataW && legalStages p.clocking p.stages && legalLineBytes p.lineBytes

/-- An operation is well formed in an instance with `DATA_W = dw`: a pushed value has `DATA_W` bits (R135), the `d` of an
internal step is at most a 64-bit difference (R185, R186). Every 64-bit capacity is a well-formed operand, an illegal one
too: it is `CONSTRUCT` that rejects it (R99, R102). -/
def Instr.wf (dw : Nat) : Instr → Bool
  | .construct _ => true
  | .reset => true
  | .push v => decide (v < 2 ^ dw)
  | .pIdle => true
  | .pop => true
  | .cIdle => true
  | .syncTail d => decide (d < 2 ^ 64)
  | .syncHead d => decide (d < 2 ^ 64)

/-- A command word fits its format, and its format is one a port carries (R92, R100, R103). -/
def CommandWord.wf (dw : Nat) (w : CommandWord) : Bool :=
  decide (w.format ≠ .none) && decide (w.bits < 2 ^ w.format.width dw)

end Sys2Proof
end

