-- ==== Sys2Proof/Decode.lean ====
section
/-! DEFINITION. The operation map of 30_encoding.md: the decoder (R99), total, rejecting by name; after it the
encoder, from the same table; the response formats (R94, R96). -/

namespace Sys2Proof

/-- Why a command word selects no operation. -/
inductive Reject
  /-- Bits above the format's width: not a word of that format (R92, R103). -/
  | tooWide
  /-- The reset input at 1 is "not in reset" and selects no operation (R99, opcode_table.json). -/
  | resetNotAsserted
  /-- Format `none`: no port encodes `SYNC_TAIL` and `SYNC_HEAD`, "a decoder never produces them" (R100). -/
  | noEncoding
  deriving DecidableEq, Repr

/-- Bit `DATA_W` of a producer word is `push_req`, bits `DATA_W - 1` to `0` are `wr_data` (R93, R99). -/
def decodePC (dw w : Nat) : Instr := if w.testBit dw then .push (w % 2 ^ dw) else .pIdle

/-- Bit 0 of a consumer word is `pop_req` (R95, R99). -/
def decodeCC (w : Nat) : Instr := if w.testBit 0 then .pop else .cIdle

/-- The decoder of an instance with `DATA_W = dw` (R99, R103). -/
def decode (dw : Nat) (w : CommandWord) : Except Reject Instr :=
  if w.bits < 2 ^ w.format.width dw then
    match w.format with
    | .k => .ok (.construct (BitVec.ofNat 64 w.bits))
    | .rs => if w.bits = 0 then .ok .reset else .error .resetNotAsserted
    | .pc => .ok (decodePC dw w.bits)
    | .cc => .ok (decodeCC w.bits)
    | .none => .error .noEncoding
  else .error .tooWide

/-- The encoder: the command word of an operation, none for the two steps no port encodes (R93, R95, R97, R99,
R100). `wr_data`, ignored in a `P_IDLE` cycle, is encoded as 0. -/
def encode (dw : Nat) : Instr → Option CommandWord
  | .construct c => some ⟨.k, c.toNat⟩
  | .reset => some ⟨.rs, 0⟩
  | .push v => some ⟨.pc, 2 ^ dw + v⟩
  | .pIdle => some ⟨.pc, 0⟩
  | .pop => some ⟨.cc, 1⟩
  | .cIdle => some ⟨.cc, 0⟩
  | .syncTail _ => none
  | .syncHead _ => none

/-- The `DATA_W` of spec/opcode_table.json: its rows are "shown for DATA_W = 64". -/
def tableDataW : Nat := Config.params.dataW

/-- The command word that `nbits` table bits stand for, by the row's width in whole bytes: 64 bits are format `K`,
65 bits (9 bytes) format `PC`, 1 bit (1 byte) format `CC`. DESIGN CHOICE (safe, notes/assumptions/10.md): rows `RESET`
and `C_IDLE` are both one bit of value 0 and the row's port is not among the bits; a one-bit WORD is read as format
`CC`, since "Format `RS` ... is a level, not a word" (R97). -/
def commandWordOf (nbits w : Nat) : CommandWord :=
  if nbits = 64 then ⟨.k, w⟩
  else if nbits = 1 + tableDataW ∨ nbits = 8 * ((1 + tableDataW + 7) / 8) then ⟨.pc, w⟩
  else if nbits = 1 ∨ nbits = 8 then ⟨.cc, w⟩
  else ⟨.none, w⟩

/-- The decoder on a word numbered as spec/opcode_table.json numbers it. -/
def decodeTableWord (nbits w : Nat) : Option Instr :=
  match decode tableDataW (commandWordOf nbits w) with
  | .ok i => some i
  | .error _ => none

/-- Format `PR`: bit 1 is `push_ok`, bit 0 is `full` (R94). -/
def PResponse.word (r : PResponse) : BitVec 2 := BitVec.ofBool r.pushOk ++ BitVec.ofBool r.full

/-- Format `CR` of an instance with `DATA_W = dw`: bit `DATA_W + 1` is `pop_ok`, bit `DATA_W` is `empty`, bits
`DATA_W - 1` to `0` are `rd_data` (R96). -/
def CResponse.word (dw : Nat) (r : CResponse) : BitVec (1 + 1 + dw) :=
  BitVec.ofBool r.popOk ++ BitVec.ofBool r.empty ++ BitVec.ofNat dw r.rdData

end Sys2Proof
end

