-- ==== Sys2Proof/Machine/State.lean ====
section
/-! DEFINITION. The state as plain data: every register of the table of R40, the slot array, and beside them the
ghost state R33 allows and the model's own fields (each marked, each in the assumption log). -/

namespace Sys2Proof.Machine

/-- The slot array as (index, content) pairs, indexes strictly rising, no entry equal to 0, which is what an
unlisted slot reads as: the zero fill of R22 and R42. The addressable unit is one slot; "there is no smaller unit and
no byte address" (R60; notes/assumptions/3.md). -/
abbrev Memory := List (Nat × Slot)

/-- The registers that exist only when `CLOCKING = ASYNC` (R28; numbers 6 and up of R40). -/
structure AsyncRegs where
  /-- `head_gray`, producer domain (R28, R146). -/
  headGray     : Word
  /-- MODEL's own (R196, R262, notes/assumptions/7.md): the value the next sample of `head_gray` may still resolve to:
  what it was before the most recent `wclk` edge, until an `rclk` edge has sampled it. -/
  headGrayPrev : Word
  /-- `tail_gray`, consumer domain (R28, R171). -/
  tailGray     : Word
  /-- MODEL's own (R196, R262, notes/assumptions/7.md): the same of `tail_gray`, its `rclk` edges and the sampling
  `wclk` edges. -/
  tailGrayPrev : Word
  /-- `ts[0]`, ..., `ts[SYNC_STAGES - 1]`, producer domain (R28, R195). -/
  ts           : List Word
  /-- `hs[0]`, ..., `hs[SYNC_STAGES - 1]`, consumer domain (R28, R194). -/
  hs           : List Word
  deriving DecidableEq, Repr

/-- How the cursors reach the other side: the parameter `CLOCKING`, with the registers that exist only in `ASYNC`
(R10, R28). The views `tail_p` and `head_c` have no storage of their own in either form (R25, R26, R28): Ops.lean
reads them from here. -/
inductive Crossing
  | sync
  | async (r : AsyncRegs)
  deriving DecidableEq, Repr

/-- The ghost counts and sequences of R33. "No hardware holds the ghost state and no rule of an operation reads
it". -/
structure Ghost where
  /-- `PUSHED`. -/
  pushed : Nat
  /-- `POPPED`. -/
  popped : Nat
  /-- `HC`. -/
  hc     : Nat
  /-- `TP`. -/
  tp     : Nat
  /-- `IN`, the first value first. -/
  ins    : List Slot
  /-- `OUT`, the first value first. -/
  outs   : List Slot
  deriving DecidableEq, Repr

/-- How far the instance's life has come (R128, R243, R244, R245). The spec has no such register: it says which steps
there are before, during and after construction and reset (notes/assumptions/4.md). -/
inductive Life
  /-- No instance exists yet; the elaboration parameters other than `DEPTH` are fixed (R97, R125). -/
  | elaborating
  /-- Constructed, not yet reset: registers and slots "may hold anything" and the block "must not be used" (R243). -/
  | constructed
  /-- The reset input is low (R242, R244). -/
  | inReset
  /-- Reset and released: both sides may issue commands (R245 step 5). -/
  | running
  deriving DecidableEq, Repr

/-- The state of one instance of the block. -/
structure State where
  /-- `capacity`, register 2: `DEPTH` of this instance (R20). -/
  capacity  : Word
  /-- `index_mask`, register 3 (R21). -/
  indexMask : Word
  /-- `DATA_W`, the slot width of this instance (R10, R22). -/
  dataW     : Nat
  /-- `head`, register 0: the producer's cursor, the WRITE cursor (R17, R23). -/
  head      : Word
  /-- `tail`, register 1: the consumer's cursor, the READ cursor (R17, R24). -/
  tail      : Word
  /-- `storage` (R22). -/
  storage   : Memory
  /-- `CLOCKING` and the registers of `ASYNC` (R28). -/
  crossing  : Crossing
  /-- MODEL's own (R125, R243, R244, notes/assumptions/4.md): how far this instance's life has come. -/
  life      : Life
  /-- MODEL's own (R29, R92, notes/assumptions/5.md): the producer group's outputs in its last cycle. -/
  pOut      : PResponse
  /-- MODEL's own (R29, R92, notes/assumptions/5.md): the consumer group's outputs in its last cycle. -/
  cOut      : CResponse
  /-- Ghost state (R33). -/
  ghost     : Ghost
  /-- MODEL's own (R14, R264, notes/assumptions/6.md): the inputs still to come, the next one first. -/
  inputs    : List Input
  deriving DecidableEq, Repr

/-- What stops the machine with an error. -/
inductive Fault
  /-- `ConfigError(c)`, raised by `CONSTRUCT(c)` with an illegal capacity: "the block's only exception" (R210,
  R213). It is the spec's own end of the run ("no step of any agent is defined after `ConfigError`", R124), so it is
  exact: neither safe nor unsafe. -/
  | configError (c : Word)
  deriving DecidableEq, Repr

/-- Why the model gives a step no meaning. -/
inductive Refusal
  /-- Raised by `exec` for an operation without a meaning (none is left); safe. -/
  | notModelled (mnemonic : String)
  /-- Raised by `CONSTRUCT` on an instance that exists: "Construction happens at elaboration, not at run time" (R125),
  "exactly once per instance" (R128); safe. -/
  | alreadyConstructed
  /-- Raised by everything but `CONSTRUCT` while no instance exists: no step is defined there (R97, R124); safe. -/
  | noInstance
  /-- Raised by everything but `RESET` on an instance that no `RESET` has followed yet: "The block must not be used before
  it has been reset" (R243, R255; U8 says `refuse`); safe. -/
  | usedBeforeReset
  /-- Raised when the reset input goes low while a port shows a request: "if the block is reset while a caller is still
  requesting" the behaviour "has no meaning" (R223, R246, R255; U4 says `refuse`); safe. -/
  | resetUnderTraffic
  /-- Raised by `PUSH(v)` with a `v` of more than `DATA_W` bits, which no port carries (R93, R135); safe. -/
  | operandTooWide
  /-- Raised by `SYNC_TAIL(d)` and `SYNC_HEAD(d)` with `d` beyond the cursor: "not steps of the machine: a view never
  passes its cursor" (R185, R186, 95_test_vectors.md section 2.4); safe. -/
  | viewPastCursor
  /-- Raised by a clock edge of a clock the instance's form does not have (R91); safe. -/
  | noSuchClock
  /-- Raised by the step for a command word that selects no operation, with the decoder's reason (R99, R100, R102);
  safe. -/
  | notACommand (r : Reject)
  deriving DecidableEq, Repr

/-- The outputs while the block is in reset (R244), which are also what the flags of R42 give after it:
`push_ok == 0`, `full == 0`. -/
def PResponse.quiet : PResponse := { pushOk := false, full := false }

/-- `pop_ok == 0`, `empty == 1`, `rd_data == 0` (R42, R244). -/
def CResponse.quiet : CResponse := { popOk := false, empty := true, rdData := 0 }

/-- "the ghost counts are 0 and the ghost sequences empty" (R42). -/
def Ghost.zero : Ghost := { pushed := 0, popped := 0, hc := 0, tp := 0, ins := [], outs := [] }

/-- The crossing after reset: in `ASYNC` every gray register and every one of `SYNC_STAGES` stages is 0 (R42,
R198). -/
def Crossing.resetOf (k : Clocking) (stages : Nat) : Crossing :=
  match k with
  | .sync => .sync
  | .async => .async { headGray := 0, headGrayPrev := 0, tailGray := 0, tailGrayPrev := 0,
                       ts := List.replicate stages 0, hs := List.replicate stages 0 }

/-- The state of R42 of the instance with these parameters: after `CONSTRUCT` with a legal `DEPTH` and `RESET`. -/
def State.resetOf (p : Config.Params) : State :=
  { capacity  := p.depth
    indexMask := p.depth - 1
    dataW     := p.dataW
    head      := 0
    tail      := 0
    storage   := []
    crossing  := Crossing.resetOf p.clocking p.stages
    life      := .running
    pOut      := PResponse.quiet
    cOut      := CResponse.quiet
    ghost     := Ghost.zero
    inputs    := [] }

/-- The machine right after reset: "its initial state is the state of 10_state.md rule R42" (R243), for the
instance `Config.params`. -/
def State.reset : State := State.resetOf Config.params

end Sys2Proof.Machine
end

