-- ==== Sys2Proof/Machine/Ops.lean ====
section
/-! DEFINITION. The named operations over the slot array, the cursors, the views and the synchroniser chains, and
the block's one exception. -/

namespace Sys2Proof.Machine

/-! ## The slot array (R13, R22, R60) -/

/-- The content of slot `i`; an unlisted slot holds the 0 of the zero fill (R42). -/
def Memory.read : Memory → Nat → Slot
  | [], _ => 0
  | (a, v) :: m, i => if a = i then v else Memory.read m i

/-- Slot `i` set to `v`, in canonical form: writing 0 removes the entry. -/
def Memory.write : Memory → Nat → Slot → Memory
  | [], i, v => if v = 0 then [] else [(i, v)]
  | (a, w) :: m, i, v =>
    if i < a then (if v = 0 then (a, w) :: m else (i, v) :: (a, w) :: m)
    else if i = a then (if v = 0 then m else (i, v) :: m)
    else (a, w) :: Memory.write m i v

/-- The canonical form: indexes strictly rising, no entry that an unlisted slot would read as. -/
abbrev Memory.wf (m : Memory) : Prop := m.Pairwise (fun a b => a.1 < b.1) ∧ ∀ c ∈ m, c.2 ≠ 0

/-- Every slot 0: what "for i in 0 .. DEPTH - 1 : MemWrite(i, DATA_W, 0)" leaves (R120, R240). -/
def Memory.zeroFill : Memory := []

/-- `MemRead(i, DATA_W)` (R13). Reading has no side effect (R68). -/
def memRead (i : Nat) (s : State) : Slot := Memory.read s.storage i

/-- `MemWrite(i, DATA_W, v)` (R13): all `DATA_W` bits at once (R65). -/
def memWrite (i : Nat) (v : Slot) (s : State) : State := { s with storage := Memory.write s.storage i v }

/-! ## The views (R25, R26, R28, R197) -/

/-- The last stage of a synchroniser chain. -/
def lastStage (chain : List Word) : Word := chain.getLastD 0

/-- `tail_p`, register 4: the wire `tail` when `CLOCKING = SYNC` (R25), `gray2bin(ts[SYNC_STAGES - 1])` when `ASYNC`
(R28, R197). -/
def tailP (s : State) : Word :=
  match s.crossing with
  | .sync => s.tail
  | .async r => gray2bin (lastStage r.ts)

/-- `head_c`, register 5: the wire `head` when `CLOCKING = SYNC` (R26), `gray2bin(hs[SYNC_STAGES - 1])` when `ASYNC`
(R28, R197). -/
def headC (s : State) : Word :=
  match s.crossing with
  | .sync => s.head
  | .async r => gray2bin (lastStage r.hs)

/-- How far `tail_p` is behind `tail`: the bound on `d` in R185. -/
def tailLag (s : State) : Nat := (s.tail - tailP s).toNat

/-- How far `head_c` is behind `head`: the bound on `d` in R186. -/
def headLag (s : State) : Nat := (s.head - headC s).toNat

/-! ## Publishing a cursor (R140, R146, R165, R171, R189) -/

/-- The crossing at the edge that publishes `h` as the new `head`: `head_gray <- bin2gray(h)` in `ASYNC` (R146). -/
def Crossing.publishHead (h : Word) : Crossing → Crossing
  | .sync => .sync
  | .async r => .async { r with headGrayPrev := r.headGray, headGray := bin2gray h }

/-- The crossing at the edge that publishes `t` as the new `tail`: `tail_gray <- bin2gray(t)` in `ASYNC` (R171). -/
def Crossing.publishTail (t : Word) : Crossing → Crossing
  | .sync => .sync
  | .async r => .async { r with tailGrayPrev := r.tailGray, tailGray := bin2gray t }

/-- 1 when `CLOCKING = SYNC`, 0 when `ASYNC`: the `d` of the synchronising step that R189 makes part of every
successful `PUSH` and `POP` in `SYNC`. -/
def Crossing.sameStep : Crossing → Nat
  | .sync => 1
  | .async _ => 0

/-- The ghost step of a successful `PUSH(v)` (R135, R189). -/
def Ghost.notePush (v : Slot) (x : Crossing) (g : Ghost) : Ghost :=
  { g with pushed := g.pushed + 1, hc := g.hc + x.sameStep, ins := g.ins ++ [v] }

/-- The ghost step of a successful `POP` that returns `v` (R160, R189). -/
def Ghost.notePop (v : Slot) (x : Crossing) (g : Ghost) : Ghost :=
  { g with popped := g.popped + 1, tp := g.tp + x.sameStep, outs := g.outs ++ [v] }

/-- Step 5 of Enqueue: `head <- head +64 1` (R140), with its gray code (R146). -/
def publishHead (s : State) : State :=
  { s with head := s.head + 1, crossing := s.crossing.publishHead (s.head + 1) }

/-- Step 5 of Dequeue: `tail <- tail +64 1` (R165), with its gray code (R171). -/
def publishTail (s : State) : State :=
  { s with tail := s.tail + 1, crossing := s.crossing.publishTail (s.tail + 1) }

/-! ## Responses and inputs -/

/-- The producer group's outputs of this cycle (R92). -/
def respondP (p : PResponse) (s : State) : State := { s with pOut := p }

/-- The consumer group's outputs of this cycle (R92). -/
def respondC (c : CResponse) (s : State) : State := { s with cOut := c }

/-- The inputs still to come. -/
def withInputs (l : List Input) (s : State) : State := { s with inputs := l }

/-! ## The abstract synchronising steps on the chains (R185, R186) -/

/-- Every stage that is further behind the cursor `src` than `v` is brought forward to `v`. The view is the last
stage (R197), so this moves the view to `v`, and no later edge can take it back (R74). DEDUCED (notes/assumptions/8.md):
the spec gives the abstract step and the chains but not the one on the other. -/
def bringForward (src v : Word) (chain : List Word) : List Word :=
  chain.map fun g => if src - gray2bin g ≤ src - v then g else bin2gray v

/-- The chain `ts` after `tail_p` moves to `v`. -/
def Crossing.moveTailP (tail v : Word) : Crossing → Crossing
  | .sync => .sync
  | .async r => .async { r with ts := bringForward tail v r.ts }

/-- The chain `hs` after `head_c` moves to `v`. -/
def Crossing.moveHeadC (head v : Word) : Crossing → Crossing
  | .sync => .sync
  | .async r => .async { r with hs := bringForward head v r.hs }

/-- `tail_p <- tail_p +64 d`, ghost `TP` grows by `d` (R185). -/
def advanceTailP (d : Nat) (s : State) : State :=
  { s with crossing := s.crossing.moveTailP s.tail (tailP s + BitVec.ofNat 64 d)
           ghost := { s.ghost with tp := s.ghost.tp + d } }

/-- `head_c <- head_c +64 d`, ghost `HC` grows by `d` (R186). -/
def advanceHeadC (d : Nat) (s : State) : State :=
  { s with crossing := s.crossing.moveHeadC s.head (headC s + BitVec.ofNat 64 d)
           ghost := { s.ghost with hc := s.ghost.hc + d } }

/-! ## The synchroniser chains at a clock edge (R194 to R197) -/

/-- `sample(r)` (R196), in the form it gives "a model without real time": the current value or, if the source
changed at its most recent edge, the value before that edge, "but nothing older than the previous sample". `prev`
equals `cur` when there was no such change, or when an earlier edge of the sampling clock has sampled since (R262); when
the previous sample is already `cur`, `prev` would be older. -/
def sample (cur prev previousSample : Word) (late : Bool) : Word :=
  if late && decide (previousSample ≠ cur) then prev else cur

/-- One edge of a chain: `c[0] <- v`, `c[j] <- c[j-1]`, every right-hand side the value before the edge (R194,
R195). -/
def shiftChain (v : Word) (chain : List Word) : List Word := (v :: chain).take chain.length

/-- The chain `ts` at a `wclk` edge (R195). Only the first sampling edge after a change can fall "so close to" it that
the sample is the old value (R262), so `tail_gray` has no earlier value left afterwards. -/
def AsyncRegs.shiftTs (late : Bool) (r : AsyncRegs) : AsyncRegs :=
  { r with ts := shiftChain (sample r.tailGray r.tailGrayPrev (r.ts.headD 0) late) r.ts
           tailGrayPrev := r.tailGray }

/-- The chain `hs` at an `rclk` edge (R194), and `head_gray` as `AsyncRegs.shiftTs` has `tail_gray`. -/
def AsyncRegs.shiftHs (late : Bool) (r : AsyncRegs) : AsyncRegs :=
  { r with hs := shiftChain (sample r.headGray r.headGrayPrev (r.hs.headD 0) late) r.hs
           headGrayPrev := r.headGray }

/-- What a `wclk` edge does to the chain `ts`; the ghost `TP` follows the view (R195, R197, R199). -/
def shiftTs (late : Bool) (r : AsyncRegs) (s : State) : State :=
  { s with crossing := .async (r.shiftTs late)
           ghost := { s.ghost with
             tp := s.ghost.tp + (gray2bin (lastStage (r.shiftTs late).ts) - gray2bin (lastStage r.ts)).toNat } }

/-- What an `rclk` edge does to the chain `hs`; the ghost `HC` follows the view (R194, R197, R199). -/
def shiftHs (late : Bool) (r : AsyncRegs) (s : State) : State :=
  { s with crossing := .async (r.shiftHs late)
           ghost := { s.ghost with
             hc := s.ghost.hc + (gray2bin (lastStage (r.shiftHs late).hs) - gray2bin (lastStage r.hs)).toNat } }

/-- The gray register of the producer's cursor at an edge of `wclk`: what it was before the edge is kept for the
samples of R196. -/
def AsyncRegs.noteWclk (r : AsyncRegs) : AsyncRegs := { r with headGrayPrev := r.headGray }

/-- The gray register of the consumer's cursor at an edge of `rclk`. -/
def AsyncRegs.noteRclk (r : AsyncRegs) : AsyncRegs := { r with tailGrayPrev := r.tailGray }

/-- The state with these registers of `ASYNC`. -/
def withAsync (r : AsyncRegs) (s : State) : State := { s with crossing := .async r }

/-! ## Reset values (R42) and the one exception (R210) -/

/-- Every stage of both chains and every gray register at 0 (R198, R240). -/
def Crossing.cleared : Crossing → Crossing
  | .sync => .sync
  | .async r => .async { headGray := 0, headGrayPrev := 0, tailGray := 0, tailGrayPrev := 0,
                         ts := r.ts.map fun _ => 0, hs := r.hs.map fun _ => 0 }

/-- Everything but `capacity` and `index_mask` at its value in R42; shared by `CONSTRUCT` (R120, R122) and `RESET`
(R240). `l` is where the instance's life stands then. -/
def cleared (l : Life) (s : State) : State :=
  { s with head := 0, tail := 0, storage := Memory.zeroFill, crossing := s.crossing.cleared, life := l
           pOut := PResponse.quiet, cOut := CResponse.quiet, ghost := Ghost.zero }

/-- How far the instance's life has come. -/
def withLife (l : Life) (s : State) : State := { s with life := l }

/-- What only an instance that has been reset does: no instance, no step (R124); "The block must not be used before it
has been reset" (R243). -/
def ifReset (o : Host.Outcome State Fault Refusal) (s : State) : Host.Outcome State Fault Refusal :=
  match s.life with
  | .elaborating => .refused .noInstance
  | .constructed => .refused .usedBeforeReset
  | .inReset => o
  | .running => o

/-- A port's command: while reset is low "that domain's requests are ignored" and its response is the quiet one (R244),
given as `quiet`; otherwise the command, given as `o`. -/
def atPort (quiet : State) (o : Host.Outcome State Fault Refusal) (s : State) : Host.Outcome State Fault Refusal :=
  ifReset (if s.life = .inReset then .next quiet else o) s

/-- `raise ConfigError(c)` (R13, R210, R216): the value recorded is the offending capacity; no state is saved, no mode
changes and there is no handler, "because no instance exists". There is no return from it (R217), so no operation
stands beside this one. -/
def raiseConfigError (c : Word) : Host.Outcome State Fault Refusal := .fault (.configError c)

end Sys2Proof.Machine
end

