-- ==== Sys2Proof/Machine/Operands.lean ====
section
/-! DEFINITION. The operand forms (30_encoding.md section 4, R61): operands "are used as they stand", and the one
addressing mode is cursor-indexed with mask. -/

namespace Sys2Proof.Machine

/-- `cursor & index_mask`, the effective slot index (R27, R61): always in range (R64). -/
def slotIndex (cursor mask : Word) : Nat := (cursor &&& mask).toNat

/-- The slot a `PUSH` writes: the index is computed from `head` before the increment (R61, R139). -/
def writeIndex (s : State) : Nat := slotIndex s.head s.indexMask

/-- The slot a `POP` reads: the index is computed from `tail` before the increment (R61, R164). -/
def readIndex (s : State) : Nat := slotIndex s.tail s.indexMask

/-- `DEPTH` as a number. -/
def depth (s : State) : Nat := s.capacity.toNat

/-- `AW = log2(DEPTH)`, the width of a slot index (R9, R60). -/
def addressWidth (s : State) : Nat := Nat.log2 (depth s)

end Sys2Proof.Machine
end

