-- ==== Sys2Proof/Machine/Flags.lean ====
section
/-! DEFINITION. The status flags, the response flags and the regions (10_state.md sections 7 and 8). They are
functions of the state and the command, not state (R29). -/

namespace Sys2Proof.Machine

/-- `full = ((head -64 tail_p) == DEPTH)` (R37, R138): equality, not `>=`. -/
def full (s : State) : Bool := decide (s.head - tailP s = s.capacity)

/-- `empty = (head_c == tail)` (R37, R163). -/
def empty (s : State) : Bool := decide (headC s = s.tail)

/-- `push_ok = push_req & ~full` (R38). -/
def pushOk (req : Bool) (s : State) : Bool := req && !full s

/-- `pop_ok = pop_req & ~empty` (R38). -/
def popOk (req : Bool) (s : State) : Bool := req && !empty s

/-- The producer group's outputs during a cycle, from the values at its start (R92, R145, R147). -/
def producerResponse (req : Bool) (s : State) : PResponse := { pushOk := pushOk req s, full := full s }

/-- The consumer group's outputs during a cycle, from the values at its start (R92, R170, R172): `rd_data` is 0
whenever `pop_ok == 0` (R178, 90_conflicts.md C1). -/
def consumerResponse (req : Bool) (s : State) : CResponse :=
  { popOk := popOk req s, empty := empty s, rdData := if popOk req s then memRead (readIndex s) s else 0 }

/-- The number of unconsumed elements, `head -64 tail` (R31). -/
def fill (s : State) : Nat := (s.head - s.tail).toNat

/-- The three regions of R36. -/
inductive Region
  | emptyRegion
  | partlyFilled
  | fullRegion
  deriving DecidableEq, Repr

/-- The region of a state, by the TRUE fill, not by a view (R36). -/
def region (s : State) : Region :=
  if s.head - s.tail = 0 then .emptyRegion else if s.head - s.tail = s.capacity then .fullRegion
  else .partlyFilled

end Sys2Proof.Machine
end

