-- ==== Sys2Proof/Machine/Construct.lean ====
section
/-! DEFINITION. The environment's operations: `CONSTRUCT` (40_construct.md) and `RESET` (70_reset_and_hazards.md
section 1). -/

namespace Sys2Proof.Machine

/-- `CONSTRUCT(c)` (R120), performed while no instance exists (R97, R125): the size test, then the power-of-two test,
each raising `ConfigError(c)`; otherwise the instance, with the values of R42 (R122), not to be used before its first
`RESET` (R128, R243). The other parameters are already fixed: the operand is `DEPTH` alone (R97). -/
def execConstruct (c : Word) (s : State) : Host.Outcome State Fault Refusal :=
  if s.life = .elaborating then
    if c < 2 then raiseConfigError c
    else if c &&& (c - 1) ≠ 0 then raiseConfigError c
    else .next (cleared .constructed { s with capacity := c, indexMask := c - 1 })
  else .refused .alreadyConstructed

/-- `RESET` (R240), the whole of it: the reset input goes low and high again, between two commands of each caller, so
both are idle (R92, R246). Everything but `capacity` and `index_mask` (R248) to the values of R42; the outputs are those
of a block in reset (R244). -/
def execReset (s : State) : Host.Outcome State Fault Refusal :=
  if s.life = .elaborating then .refused .noInstance else .next (cleared .running s)

/-- The reset input is low while the ports select `p` and `c`. It takes effect at once (R242). It may go low only when
both callers are idle (R246, U4); while it is low, requests are ignored (R215 case c, R244). All its effect is here, before
any edge of a clock (notes/assumptions/17.md). -/
def lowerReset (p c : Instr) (s : State) : Host.Outcome State Fault Refusal :=
  match s.life with
  | .elaborating => .refused .noInstance
  | .inReset => .next (cleared .inReset s)
  | .constructed => if p = .pIdle ∧ c = .cIdle then .next (cleared .inReset s) else .refused .resetUnderTraffic
  | .running => if p = .pIdle ∧ c = .cIdle then .next (cleared .inReset s) else .refused .resetUnderTraffic

/-- The reset input is high: from the next cycle on both sides may issue commands (R245 steps 4 and 5). DESIGN CHOICE
(unsafe, notes/assumptions/17.md): R241 asks for at least one rising edge of each domain's clock while reset is low and
gives a shorter low phase no outcome; here it ends as any other, with the full effect of `RESET`. -/
def raiseReset (s : State) : Host.Outcome State Fault Refusal := ifReset (.next (withLife .running s)) s

end Sys2Proof.Machine
end

