-- ==== Sys2Proof/Machine/Pop.lean ====
section
/-! DEFINITION. The consumer's commands (42_pop.md). -/

namespace Sys2Proof.Machine

/-- Steps 4 to 6 of Dequeue, as one atomic step (R164 to R166, R175): the slot read, the publish of `tail`, and the
ghost step. The slot is not changed (R173 case f). -/
def dequeue (s : State) : State :=
  publishTail { s with ghost := s.ghost.notePop (memRead (readIndex s) s) s.crossing }

/-- `POP` (R160). A failed pop changes nothing but the response, `(0, false)` (R163, R169, R178). Before the first
`RESET` the block must not be used (R243, U8); in reset the request is ignored (R244). -/
def execPop (s : State) : Host.Outcome State Fault Refusal :=
  atPort (respondC CResponse.quiet s)
    (.next (respondC (consumerResponse true s) (if empty s then s else dequeue s))) s

/-- `C_IDLE` (R172): no read and no write; the outputs are `pop_ok == 0`, `rd_data == 0` and the flag `empty`. -/
def execCIdle (s : State) : Host.Outcome State Fault Refusal :=
  atPort (respondC CResponse.quiet s) (.next (respondC (consumerResponse false s) s)) s

end Sys2Proof.Machine
end

