-- ==== Sys2Proof/Machine/Push.lean ====
section
/-! DEFINITION. The producer's commands (41_push.md). -/

namespace Sys2Proof.Machine

/-- Steps 4 to 6 of Enqueue, as one atomic step (R139 to R141, R150): the slot write, the publish of `head`, and the
ghost step. The index and the ghost values are taken before the increment. -/
def enqueue (v : Slot) (s : State) : State :=
  publishHead { memWrite (writeIndex s) v s with ghost := s.ghost.notePush v s.crossing }

/-- `PUSH(v)` (R135), `v` of `DATA_W` bits. A failed push changes nothing but the response (R138, R144). Before the
first `RESET` the block must not be used (R243, U8); in reset the request is ignored (R244). -/
def execPush (v : Slot) (s : State) : Host.Outcome State Fault Refusal :=
  if v < 2 ^ s.dataW then
    atPort (respondP PResponse.quiet s)
      (.next (respondP (producerResponse true s) (if full s then s else enqueue v s))) s
  else .refused .operandTooWide

/-- `P_IDLE` (R147): no read and no write; the outputs are `push_ok == 0` and the flag `full`. -/
def execPIdle (s : State) : Host.Outcome State Fault Refusal :=
  atPort (respondP PResponse.quiet s) (.next (respondP (producerResponse false s) s)) s

end Sys2Proof.Machine
end

