-- ==== Sys2Proof/Machine/Sync.lean ====
section
/-! DEFINITION. The internal steps of the abstract machine (43_sync.md section 1) and the pseudo-operation `settle`
(R105). -/

namespace Sys2Proof.Machine

/-- `SYNC_TAIL(d)` (R185), enabled for every `d` up to `tail -64 tail_p` (R187) in every state the spec's machine has, so
from the first `RESET` on (R243). A larger `d` is no step of the machine ("a view never passes its cursor"). When
`CLOCKING = SYNC` the bound is 0 and nothing changes (R189). -/
def execSyncTail (d : Nat) (s : State) : Host.Outcome State Fault Refusal :=
  ifReset (if d ≤ tailLag s then .next (advanceTailP d s) else .refused .viewPastCursor) s

/-- `SYNC_HEAD(d)` (R186), as `SYNC_TAIL` with the roles of the sides exchanged. -/
def execSyncHead (d : Nat) (s : State) : Host.Outcome State Fault Refusal :=
  ifReset (if d ≤ headLag s then .next (advanceHeadC d s) else .refused .viewPastCursor) s

/-- `settle` (R105): each view brought up to its cursor, `ST` first. The empty sequence when `CLOCKING = SYNC`. -/
def settle (s : State) : State :=
  let s1 := advanceTailP (tailLag s) s
  advanceHeadC (headLag s1) s1

end Sys2Proof.Machine
end

