-- ==== Sys2Proof/Machine/Dispatch.lean ====
section
/-! DEFINITION. One arm per operation of spec/opcode_table.json. -/

namespace Sys2Proof.Machine

def exec (i : Instr) (s : State) : Host.Outcome State Fault Refusal :=
  match i with
  | .construct c => Sys2Proof.Machine.execConstruct c s
  | .reset => Sys2Proof.Machine.execReset s
  | .push v => Sys2Proof.Machine.execPush v s
  | .pIdle => Sys2Proof.Machine.execPIdle s
  | .pop => Sys2Proof.Machine.execPop s
  | .cIdle => Sys2Proof.Machine.execCIdle s
  | .syncTail d => Sys2Proof.Machine.execSyncTail d s
  | .syncHead d => Sys2Proof.Machine.execSyncHead d s

end Sys2Proof.Machine
end

