-- ==== Sys2Proof/Machine/Clock.lean ====
section
/-! DEFINITION. What one input does: a command word at a port, a step of a synchronising agent, a clock cycle of the
form `SYNC`, a clock edge of the form `ASYNC`, a cycle in reset. -/

namespace Sys2Proof.Machine

/-- The next part of a step after a part that may have stopped. -/
def andThen (o : Host.Outcome State Fault Refusal) (f : State → Host.Outcome State Fault Refusal) :
    Host.Outcome State Fault Refusal :=
  match o with
  | .next s => f s
  | .fault r => .fault r
  | .refused r => .refused r

/-- A command word at one port (R99): the operation it selects, or the decoder's rejection by name. -/
def runCommand (w : CommandWord) (s : State) : Host.Outcome State Fault Refusal :=
  match decode s.dataW w with
  | .ok i => exec i s
  | .error r => .refused (.notACommand r)

/-- Both updates of one `SYNC` cycle happen at its edge (R215 case b, R258): `p` is the state the producer's command
alone gives from the start of the cycle, `c` the one the consumer's command alone gives. Each domain's registers, the
slots and the outputs come from the side that owns them (R18, R41); in `SYNC` a push moves `HC` with it and a pop `TP`
(R189). -/
def mergeSides (s p c : State) : State :=
  { s with head := p.head, storage := p.storage, pOut := p.pOut, tail := c.tail, cOut := c.cOut
           ghost := { pushed := p.ghost.pushed, hc := p.ghost.hc, ins := p.ghost.ins
                      popped := c.ghost.popped, tp := c.ghost.tp, outs := c.ghost.outs } }

/-- One cycle of `clk` (`CLOCKING = SYNC`): both commands use the values from the start of the cycle (R145, R170,
R258). The form `ASYNC` has no port `clk` (R91). -/
def clkCycle (pc cc : Nat) (s : State) : Host.Outcome State Fault Refusal :=
  match s.crossing with
  | .sync => andThen (runCommand ⟨.pc, pc⟩ s) fun p => andThen (runCommand ⟨.cc, cc⟩ s) fun c => .next (mergeSides s p c)
  | .async _ => .refused .noSuchClock

/-- A rising edge of `wclk` (`CLOCKING = ASYNC`): the producer's command with the values before the edge (R145, R146),
and the chain `ts` (R195), whose change "takes effect for the next cycle's command" (R215 case d). Every edge sets
what `head_gray` was before it. The form `SYNC` has no port `wclk` (R91). -/
def wclkEdge (pc : Nat) (late : Bool) (s : State) : Host.Outcome State Fault Refusal :=
  match s.crossing with
  | .sync => .refused .noSuchClock
  | .async r =>
    andThen (runCommand ⟨.pc, pc⟩ (withAsync r.noteWclk s)) fun p =>
      match p.crossing with
      | .sync => .refused .noSuchClock
      | .async r' => .next (shiftTs late r' p)

/-- A rising edge of `rclk` (`CLOCKING = ASYNC`): the consumer's command (R170, R171) and the chain `hs` (R194). -/
def rclkEdge (cc : Nat) (late : Bool) (s : State) : Host.Outcome State Fault Refusal :=
  match s.crossing with
  | .sync => .refused .noSuchClock
  | .async r =>
    andThen (runCommand ⟨.cc, cc⟩ (withAsync r.noteRclk s)) fun c =>
      match c.crossing with
      | .sync => .refused .noSuchClock
      | .async r' => .next (shiftHs late r' c)

/-- The reset input is low while the ports show these words (R244, R246). -/
def resetCycle (pc cc : Nat) (s : State) : Host.Outcome State Fault Refusal :=
  match decode s.dataW ⟨.pc, pc⟩ with
  | .error r => .refused (.notACommand r)
  | .ok p => match decode s.dataW ⟨.cc, cc⟩ with
    | .error r => .refused (.notACommand r)
    | .ok c => lowerReset p c s

/-- What one input does. -/
def runInput (x : Input) (s : State) : Host.Outcome State Fault Refusal :=
  match x with
  | .command w => runCommand w s
  | .st d => exec (.syncTail d) s
  | .sh d => exec (.syncHead d) s
  | .clk pc cc => clkCycle pc cc s
  | .wclk pc late => wclkEdge pc late s
  | .rclk cc late => rclkEdge cc late s
  | .resetLow pc cc => resetCycle pc cc s
  | .resetHigh => raiseReset s

/-- Inputs in order, stopping at the first that is not answered by a next state; for statements about runs. -/
def feed : List Input → State → Host.Outcome State Fault Refusal
  | [], s => .next s
  | x :: xs, s => andThen (runInput x s) (feed xs)

end Sys2Proof.Machine
end

