-- ==== Sys2Proof/Machine/Step.lean ====
section
/-! DEFINITION. One step: the next input (R92, R264; notes/assumptions/6.md). -/

namespace Sys2Proof.Machine

/-- One step takes the next input and runs it. With no input left nothing moves: "when its clocks stop it holds its
state" (R227, R260). -/
def step (s : State) : Host.Outcome State Fault Refusal :=
  match s.inputs with
  | [] => .next s
  | x :: rest => runInput x (withInputs rest s)

/-- `s` with the command word that `nbits` and `w` stand for as its next input: what the outside world drives. The word
of format `K` is no port's: "it is the elaboration parameter `DEPTH`, given once, before the instance exists" (R97), so
with it the instance does not exist yet (notes/assumptions/6.md). -/
def State.withFetchWord (s : State) (nbits w : Nat) : State :=
  let word := commandWordOf nbits w
  withInputs (.command word :: s.inputs) (if word.format = .k then withLife .elaborating s else s)

end Sys2Proof.Machine
end

