-- ==== Sys2Proof/Machine/Image.lean ====
section
/-! DEFINITION. The spec's two ways to name the state: register numbers (R13, R40) and the state image (R66). No
operation uses them. -/

namespace Sys2Proof.Machine

/-- `x[i]`: the read of register number `i` of the table of R40; none where the instance has no such register. -/
def readRegister (i : Nat) (s : State) : Option Word :=
  match i with
  | 0 => some s.head
  | 1 => some s.tail
  | 2 => some s.capacity
  | 3 => some s.indexMask
  | 4 => some (tailP s)
  | 5 => some (headC s)
  | 6 => match s.crossing with
    | .sync => none
    | .async r => some r.headGray
  | 7 => match s.crossing with
    | .sync => none
    | .async r => some r.tailGray
  | j + 8 => match s.crossing with
    | .sync => none
    | .async r => (r.ts ++ r.hs)[j]?

/-- `SLOT_BYTES = ceil(DATA_W / 8)` (R66). -/
def slotBytes (s : State) : Nat := (s.dataW + 7) / 8

/-- The byte at offset `k` of a little-endian value (R63): bits `8k + 7` to `8k`; beyond the value's width they are 0, the
zero extension of R66. -/
def leByte (v : Nat) (k : Nat) : Byte := BitVec.ofNat 8 (v >>> (8 * k))

/-- The length of the image (R66). -/
def imageLength (line : Nat) (s : State) : Nat := 3 * line + depth s * slotBytes s

/-- The byte at offset `off` of the state image with `LINE_BYTES = line` (R66): the producer's line, the consumer's
line, the constants, then the slots; padding holds 0; none past the end. -/
def imageByte (line off : Nat) (s : State) : Option Byte :=
  if off < imageLength line s then
    some (
      if off < 8 then leByte s.head.toNat off
      else if off < 16 then leByte (tailP s).toNat (off - 8)
      else if off < line then 0
      else if off < line + 8 then leByte s.tail.toNat (off - line)
      else if off < line + 16 then leByte (headC s).toNat (off - (line + 8))
      else if off < 2 * line then 0
      else if off < 2 * line + 8 then leByte s.capacity.toNat (off - 2 * line)
      else if off < 2 * line + 16 then leByte s.indexMask.toNat (off - (2 * line + 8))
      else if off < 3 * line then 0
      else leByte (memRead ((off - 3 * line) / slotBytes s) s) ((off - 3 * line) % slotBytes s))
  else none

end Sys2Proof.Machine
end

