-- ==== Sys2Proof/Safety.lean ====
section
/-! DEFINITION. The terms claims are stated in: the invariant of the block (10_state.md section 6), the abstract
machine as a view of the state (R14), and fair executions (R188). -/

namespace Sys2Proof.Safety

open Sys2Proof.Machine

/-- The gray code of the register value a ghost count stands for (R33, R192). -/
def grayOfCount (n : Nat) : Word := bin2gray (BitVec.ofNat 64 n)

/-- A chain carries past values of one cursor, newest stage first, none newer than the `published` count; its last
stage is the `seen` count of the view (R40, R196, R199). -/
def ChainOk (chain : List Word) (published seen : Nat) : Prop :=
  ∃ counts : List Nat, chain = counts.map grayOfCount ∧ counts.Pairwise (fun newer older => older ≤ newer) ∧
    (∀ c ∈ counts, c ≤ published) ∧ counts.getLast? = some seen

/-- What a gray register held before its last edge: its present count, or the one before it (R27, R196). -/
def PrevOk (prev : Word) (published : Nat) : Prop :=
  prev = grayOfCount published ∨ ∃ n, published = n + 1 ∧ prev = grayOfCount n

/-- The relation of the crossing to the counts: in `SYNC` both views are exact (R25, R26); in `ASYNC` the gray
registers follow the cursors (R28) and both chains have the same `SYNC_STAGES >= 2` stages (R10, R28). -/
def CrossingOk (x : Crossing) (g : Ghost) : Prop :=
  match x with
  | .sync => g.hc = g.pushed ∧ g.tp = g.popped
  | .async r =>
    r.headGray = grayOfCount g.pushed ∧ r.tailGray = grayOfCount g.popped ∧
    PrevOk r.headGrayPrev g.pushed ∧ PrevOk r.tailGrayPrev g.popped ∧
    2 ≤ r.ts.length ∧ r.ts.length = r.hs.length ∧
    ChainOk r.ts g.popped g.tp ∧ ChainOk r.hs g.pushed g.hc

/-- The elaboration parameters other than `DEPTH` are legal (R10). -/
def ParametersOk (s : State) : Prop :=
  legalDataW s.dataW = true ∧
  match s.crossing with
  | .sync => True
  | .async r => 2 ≤ r.ts.length ∧ r.ts.length = r.hs.length

/-- The invariant of the block. -/
structure BlockInv (s : State) : Prop where
  /-- An instance exists (R124, R128). -/
  instanceExists : s.life ≠ .elaborating
  /-- `DATA_W >= 1` (R10). -/
  dataWLegal : legalDataW s.dataW = true
  /-- The capacity is legal (R20). -/
  capacityLegal : legalCapacity s.capacity = true
  /-- `index_mask == capacity - 1` (R21). -/
  maskIsCapacityLess1 : s.indexMask = s.capacity - 1
  /-- The slot array is in canonical form. -/
  storageCanonical : Memory.wf s.storage
  /-- No slot outside the array is listed (R22, R60). -/
  storageInRange : ∀ c ∈ s.storage, c.1 < depth s
  /-- Every slot holds `DATA_W` bits (R22). -/
  storageFits : ∀ c ∈ s.storage, c.2 < 2 ^ s.dataW
  /-- `head == PUSHED mod 2^64` (R33). -/
  headIsPushed : s.head = BitVec.ofNat 64 s.ghost.pushed
  /-- `tail == POPPED mod 2^64` (R33). -/
  tailIsPopped : s.tail = BitVec.ofNat 64 s.ghost.popped
  /-- `head_c == HC mod 2^64` (R33). -/
  headCIsHC : headC s = BitVec.ofNat 64 s.ghost.hc
  /-- `tail_p == TP mod 2^64` (R33). -/
  tailPIsTP : tailP s = BitVec.ofNat 64 s.ghost.tp
  /-- `POPPED <= HC` (R34). -/
  poppedLeHC : s.ghost.popped ≤ s.ghost.hc
  /-- `HC <= PUSHED` (R34). -/
  hcLePushed : s.ghost.hc ≤ s.ghost.pushed
  /-- `TP <= POPPED` (R34). -/
  tpLePopped : s.ghost.tp ≤ s.ghost.popped
  /-- `PUSHED - TP <= DEPTH` (R34). -/
  pushedWithinDepth : s.ghost.pushed ≤ s.ghost.tp + depth s
  /-- `IN` holds the successful pushes (R33). -/
  insLength : s.ghost.ins.length = s.ghost.pushed
  /-- `OUT[n] == IN[n]` for every `n < POPPED` (R46, R177). -/
  outsAreIns : s.ghost.outs = s.ghost.ins.take s.ghost.popped
  /-- For each `k` with `POPPED <= k < PUSHED`, `storage[k mod DEPTH] == IN[k]` (R46). -/
  slotsHoldQueue : ∀ k, s.ghost.popped ≤ k → k < s.ghost.pushed →
    s.ghost.ins[k]? = some (memRead (k % depth s) s)
  /-- The crossing carries the counts (R28, R189, R199). -/
  crossingOk : CrossingOk s.crossing s.ghost
  /-- While reset is low the block is as R42 has it and the outputs are those of R244. -/
  heldInReset : s.life = .inReset →
    s.ghost = Ghost.zero ∧ s.storage = Memory.zeroFill ∧ s.pOut = PResponse.quiet ∧ s.cOut = CResponse.quiet

/-- What the abstract machine of R14 has: it "does not contain" the gray registers and the chains, "it contains only
`tail_p` and `head_c`" (R28). -/
structure Abstract where
  capacity  : Word
  indexMask : Word
  dataW     : Nat
  head      : Word
  tail      : Word
  tailP     : Word
  headC     : Word
  storage   : Memory
  life      : Life
  pOut      : PResponse
  cOut      : CResponse
  ghost     : Ghost
  deriving DecidableEq, Repr

/-- The abstract machine's view of a state. -/
def abstract (s : State) : Abstract :=
  { capacity := s.capacity, indexMask := s.indexMask, dataW := s.dataW, head := s.head, tail := s.tail
    tailP := tailP s, headC := headC s, storage := s.storage, life := s.life, pOut := s.pOut, cOut := s.cOut, ghost := s.ghost }

/-- The state without its ghost part. -/
def eraseGhost (s : State) : State := { s with ghost := Ghost.zero }

/-- An outcome with its next state, if it has one, changed by `f`. -/
def mapNext (f : State → State) : Host.Outcome State Fault Refusal → Host.Outcome State Fault Refusal
  | .next s => .next (f s)
  | .fault r => .fault r
  | .refused r => .refused r

/-- An execution of the abstract machine: "any interleaving of steps of `P`, `C`, `ST` and `SH`" (R14). -/
def Execution (run : Nat → State) : Prop :=
  ∀ n, ∃ i : Instr, i.agent ≠ .environment ∧ exec i (run n) = .next (run (n + 1))

/-- `ST` is weakly fair: "if `tail_p != tail` holds from some point on, a later `SYNC_TAIL` step has `d >= 1`"
(R188). -/
def FairTail (run : Nat → State) : Prop :=
  ∀ n, (∀ m, n ≤ m → tailP (run m) ≠ (run m).tail) →
    ∃ m d, n ≤ m ∧ 1 ≤ d ∧ exec (.syncTail d) (run m) = .next (run (m + 1))

/-- `SH` is weakly fair (R188). -/
def FairHead (run : Nat → State) : Prop :=
  ∀ n, (∀ m, n ≤ m → headC (run m) ≠ (run m).head) →
    ∃ m d, n ≤ m ∧ 1 ≤ d ∧ exec (.syncHead d) (run m) = .next (run (m + 1))

/-- A state is settled: both views are up to date (R18, R265). -/
def Settled (s : State) : Prop := tailP s = s.tail ∧ headC s = s.head

/-- An input in which neither caller requests anything and the environment does not act (R265), on an instance with
`DATA_W = dw`. -/
def quietInput (dw : Nat) : Input → Bool
  | .command w => decide (decode dw w = .ok .pIdle) || decide (decode dw w = .ok .cIdle)
  | .st _ => true
  | .sh _ => true
  | .clk pc cc => decide (decodePC dw pc = .pIdle) && decide (decodeCC cc = .cIdle)
  | .wclk pc _ => decide (decodePC dw pc = .pIdle)
  | .rclk cc _ => decide (decodeCC cc = .cIdle)
  | .resetLow _ _ => false
  | .resetHigh => false

/-- An input by which the environment acts (`CONSTRUCT`, `RESET`, the reset input), or a command word that is none. -/
def environmentInput (dw : Nat) : Input → Bool
  | .command w => match decode dw w with
    | .ok i => decide (i.agent = .environment)
    | .error _ => true
  | .st _ => false
  | .sh _ => false
  | .clk _ _ => false
  | .wclk _ _ => false
  | .rclk _ _ => false
  | .resetLow _ _ => true
  | .resetHigh => true

/-- An edge of one of the two clocks of the form `ASYNC`, with a command word that fits its format: what clocks that run
and stop at any times give (R196, R260). -/
def asyncEdge (dw : Nat) : Input → Bool
  | .command _ => false
  | .st _ => false
  | .sh _ => false
  | .clk _ _ => false
  | .wclk pc _ => decide (pc < 2 ^ Format.width dw .pc)
  | .rclk cc _ => decide (cc < 2 ^ Format.width dw .cc)
  | .resetLow _ _ => false
  | .resetHigh => false

/-- An edge of `rclk`, which samples `head_gray` (R194). -/
def isRclk : Input → Bool
  | .command _ => false
  | .st _ => false
  | .sh _ => false
  | .clk _ _ => false
  | .wclk _ _ => false
  | .rclk _ _ => true
  | .resetLow _ _ => false
  | .resetHigh => false

/-- An edge of `wclk`, which samples `tail_gray` (R195). -/
def isWclk : Input → Bool
  | .command _ => false
  | .st _ => false
  | .sh _ => false
  | .clk _ _ => false
  | .wclk _ _ => true
  | .rclk _ _ => false
  | .resetLow _ _ => false
  | .resetHigh => false

/-- The state after any number of steps from a state: "the queue is reusable indefinitely" (R36). -/
inductive Reaches (s : State) : State → Prop
  | here : Reaches s s
  | step {t u : State} (h : Reaches s t) (e : Machine.step t = .next u) : Reaches s u

end Sys2Proof.Safety
end

