-- ==== Sys2Proof/Certificates/Slice0/Obligations.lean ====
section
/-! DEFINITION. The statements about the block, from the numbered rules of spec/. Notation of the docstrings: a rule's
own decision (D<n> of 92_eei_decisions.md) or derivation is named where a statement rests on it; a log entry
(notes/assumptions/<n>.md) where it rests on a choice of the model. -/

open Sys2Proof Sys2Proof.Machine Sys2Proof.Safety

/-! ## Encoding and decoding (30_encoding.md) -/

/-- R99: command words written out from the formats of R93, R95 and R97 and the vectors of 95_test_vectors.md, for
`DATA_W = 64` and, in the eighth line, `DATA_W = 8`. The last two lines number them by the opcode table's widths in whole
bytes and so rest on how the model reads a word's format from its width (DESIGN CHOICE, notes/assumptions/10.md). -/
def Obligations.WrittenWordsDecode : Prop :=
  decode 64 ⟨.pc, 0x1000000000000002A⟩ = .ok (.push 42) ∧
  decode 64 ⟨.pc, 0x1FFFFFFFFFFFFFFFF⟩ = .ok (.push 0xFFFFFFFFFFFFFFFF) ∧
  decode 64 ⟨.pc, 0x0000000000000002A⟩ = .ok .pIdle ∧
  decode 64 ⟨.cc, 1⟩ = .ok .pop ∧
  decode 64 ⟨.cc, 0⟩ = .ok .cIdle ∧
  decode 64 ⟨.k, 0x10000⟩ = .ok (.construct 65536) ∧
  decode 64 ⟨.rs, 0⟩ = .ok .reset ∧
  decode 8 ⟨.pc, 0x12A⟩ = .ok (.push 42) ∧
  decodeTableWord 72 0x1000000000000002A = some (.push 42) ∧
  decodeTableWord 8 1 = some .pop

/-- Decode and encode agree, for every `DATA_W`: every well-formed operation that a port or the elaboration carries
decodes back from its own word, every operand at every value, and the word fits its format; the two internal steps, and
no others, have no word (R93, R95, R97, R99, R100). -/
def Obligations.EncodedInstructionDecodesBack : Prop :=
  ∀ (dw : Nat) (i : Instr), i.wf dw = true →
    (∀ w, encode dw i = some w → w.wf dw = true ∧ decode dw w = .ok i) ∧
    (encode dw i = none ↔ i.agent = .st ∨ i.agent = .sh)

/-- The other direction (R99, R100, R102): every word that fits a format selects a well-formed operation, but for the
reset input at 1; no word selects an internal step; and the word is the operation's own, where `wr_data` of an idle word
is ignored. -/
def Obligations.EveryFittingWordIsACommand : Prop :=
  ∀ (dw : Nat) (w : CommandWord), w.wf dw = true → w ≠ ⟨.rs, 1⟩ →
    ∃ i, decode dw w = .ok i ∧ i.wf dw = true ∧ i.agent ≠ .st ∧ i.agent ≠ .sh ∧ (i ≠ .pIdle → encode dw i = some w)

/-- R99, R100: what selects no operation stops a step under the decoder's name for it: the reset input at 1, the format
no port has, bits beyond the format; and a value of more than `DATA_W` bits, which no port carries, is no operand of
`PUSH` (notes/assumptions/2.md). -/
def Obligations.NonCommandsAreRefused : Prop :=
  ∀ s : State,
    runInput (.command ⟨.rs, 1⟩) s = .refused (.notACommand .resetNotAsserted) ∧
    runInput (.command ⟨.none, 0⟩) s = .refused (.notACommand .noEncoding) ∧
    (∀ f b, 2 ^ Format.width s.dataW f ≤ b → runInput (.command ⟨f, b⟩) s = .refused (.notACommand .tooWide)) ∧
    (∀ v, 2 ^ s.dataW ≤ v → exec (.push v) s = .refused .operandTooWide)

/-- A step runs the decoded operation: with a command word next, `step` is `exec` of what the word decodes to, on the
state past that input; with a synchronising agent next, its step; with nothing left, the state is held (R92, R99,
R100, R227; the input list, and that a table word of format `K` meets a state with no instance, are the model's own,
notes/assumptions/6.md). -/
def Obligations.StepRunsDecodedCommand : Prop :=
  ∀ (s : State) (rest : List Input),
    (∀ w i, s.inputs = .command w :: rest → decode s.dataW w = .ok i → step s = exec i { s with inputs := rest }) ∧
    (∀ d, s.inputs = .st d :: rest → step s = exec (.syncTail d) { s with inputs := rest }) ∧
    (∀ d, s.inputs = .sh d :: rest → step s = exec (.syncHead d) { s with inputs := rest }) ∧
    (∀ nbits w i, s.dataW = 64 → decodeTableWord nbits w = some i →
      step (s.withFetchWord nbits w) = exec i (if nbits = 64 then { s with life := .elaborating } else s)) ∧
    (s.inputs = [] → step s = .next s)

/-! ## Construction and reset (40_construct.md, 70_reset_and_hazards.md) -/

/-- R121. -/
def Obligations.CapacityLegalIffPowerOfTwo : Prop :=
  (∀ c : Word, legalCapacity c = true ↔ ∃ n, 1 ≤ n ∧ n ≤ 63 ∧ c = BitVec.ofNat 64 (2 ^ n)) ∧
  (∀ (c : Word) (s : State), s.life = .elaborating → legalCapacity c = false →
    exec (.construct c) s = .fault (.configError c)) ∧
  ((0 : Word) &&& (0 - 1) = 0 ∧ (1 : Word) &&& (1 - 1) = 0 ∧ ¬ (2 : Word) ≤ 0 ∧ ¬ (2 : Word) ≤ 1)

/-- R126: the document's own cases, and every non-power-of-two, with the test each of them fails or passes; where
construction happens, at elaboration, before the instance exists (R97, R125). -/
def Obligations.ConstructDocumentCases : Prop :=
  (∀ s : State, s.life = .elaborating →
    (∀ c : Word, c ∈ [(0 : Word), 1, 3, 5] → exec (.construct c) s = .fault (.configError c)) ∧
    (∀ c : Word, (¬ ∃ n, c = BitVec.ofNat 64 (2 ^ n)) → exec (.construct c) s = .fault (.configError c)) ∧
    (∀ p : Word × Word, p ∈ [((2 : Word), (1 : Word)), (4, 3), (1024, 1023), (65536, 65535)] →
      ∃ t, exec (.construct p.1) s = .next t ∧ t.capacity = p.1 ∧ t.indexMask = p.2)) ∧
  (0 : Word) < 2 ∧ (1 : Word) < 2 ∧ ¬ (3 : Word) < 2 ∧ (3 : Word) &&& 2 = 2 ∧ ¬ (5 : Word) < 2 ∧ (5 : Word) &&& 4 = 4 ∧
  (2 : Word) &&& 1 = 0

/-- R120, R122: `CONSTRUCT` with a legal capacity completes where no instance exists yet, with the values of R42. That
the parameters other than `DEPTH` are already fixed there, and what the gray registers hold, is the model's
(notes/assumptions/9.md); so are `life`, how far the instance has come, and that the values of R120 stand until the first
`RESET`, where R243 leaves them unspecified (notes/assumptions/4.md). -/
def Obligations.ConstructBuildsZeroedInstance : Prop :=
  ∀ (c : Word) (s : State), s.life = .elaborating → legalCapacity c = true →
    ∃ t, exec (.construct c) s = .next t ∧
      t.capacity = c ∧ t.indexMask = c - 1 ∧ t.head = 0 ∧ t.tail = 0 ∧ tailP t = 0 ∧ headC t = 0 ∧
      (∀ i, memRead i t = 0) ∧ full t = false ∧ empty t = true ∧ t.life = .constructed ∧ t.inputs = s.inputs ∧
      t.ghost = Ghost.zero ∧ t.dataW = s.dataW ∧ (s.crossing = .sync → t.crossing = .sync) ∧
      (∀ r, s.crossing = .async r → ∃ r', t.crossing = .async r' ∧ r'.headGray = 0 ∧ r'.tailGray = 0 ∧
        r'.ts = List.replicate r.ts.length 0 ∧ r'.hs = List.replicate r.hs.length 0)

/-- R240, R244, R245, R248: `RESET` completes for every instance; everything but `capacity` and `index_mask` is at the
value of R42, the outputs are those of a block in reset, and it is the reset input low and high again with both callers
idle. That the whole of `RESET` lies between two commands of each caller, where R246 and U4 ask for idle callers, is the
model's reading (notes/assumptions/13.md); that the reset input low and at once high again, with none of the clock edges
R241 asks for between, does the whole of it is the model's choice (DESIGN CHOICE, notes/assumptions/17.md). -/
def Obligations.ResetRestoresInitialValues : Prop :=
  ∀ s : State, s.life ≠ .elaborating → ∃ t, exec .reset s = .next t ∧
    t.capacity = s.capacity ∧ t.indexMask = s.indexMask ∧ t.dataW = s.dataW ∧
    t.head = 0 ∧ t.tail = 0 ∧ tailP t = 0 ∧ headC t = 0 ∧ (∀ i, memRead i t = 0) ∧
    (s.crossing = .sync → t.crossing = .sync) ∧
    (∀ r, s.crossing = .async r → ∃ r', t.crossing = .async r' ∧ r'.headGray = 0 ∧ r'.tailGray = 0 ∧
      r'.ts = List.replicate r.ts.length 0 ∧ r'.hs = List.replicate r.hs.length 0) ∧
    t.ghost = Ghost.zero ∧ t.life = .running ∧ t.inputs = s.inputs ∧
    empty t = true ∧ (s.capacity ≠ 0 → full t = false) ∧
    t.pOut.word = 0b00#2 ∧ (t.cOut.word s.dataW).toNat = 2 ^ s.dataW ∧
    andThen (runInput (.resetLow 0 0) s) (runInput .resetHigh) = .next t

/-- R42: the state after construction and reset, of an instance with any legal parameters; `State.reset` is the one
with the parameters `Config.params` (its `DEPTH` is the model's choice, notes/assumptions/1.md). -/
def Obligations.ResetStateIsAsSpecified : Prop :=
  State.reset = State.resetOf Config.params ∧ Config.params.wf = true ∧
  ∀ p : Config.Params, p.wf = true →
    (State.resetOf p).capacity = p.depth ∧ (State.resetOf p).indexMask = p.depth - 1 ∧
    (State.resetOf p).dataW = p.dataW ∧
    (State.resetOf p).head = 0 ∧ (State.resetOf p).tail = 0 ∧
    tailP (State.resetOf p) = 0 ∧ headC (State.resetOf p) = 0 ∧
    (∀ i, memRead i (State.resetOf p) = 0) ∧
    (∀ r, (State.resetOf p).crossing = .async r → r.headGray = 0 ∧ r.tailGray = 0 ∧
      r.ts = List.replicate p.stages 0 ∧ r.hs = List.replicate p.stages 0) ∧
    (State.resetOf p).ghost = Ghost.zero ∧ (State.resetOf p).life = .running ∧
    full (State.resetOf p) = false ∧ empty (State.resetOf p) = true ∧
    (State.resetOf p).pOut.pushOk = false ∧ (State.resetOf p).cOut.popOk = false ∧
    region (State.resetOf p) = .emptyRegion

/-- R248: once an instance exists nothing changes `capacity` or `index_mask`, no operation and no step with any input, so
no step after it either. A `CONSTRUCT` there would be a different instance: R125 puts construction before run time, R128
has it exactly once per instance, and that the model then stops as `alreadyConstructed` is the model's reading (DEDUCED,
notes/assumptions/9.md). -/
def Obligations.NothingChangesCapacity : Prop :=
  (∀ (i : Instr) (s t : State), s.life ≠ .elaborating → exec i s = .next t →
    t.capacity = s.capacity ∧ t.indexMask = s.indexMask) ∧
  (∀ s t : State, s.life ≠ .elaborating → step s = .next t →
    t.capacity = s.capacity ∧ t.indexMask = s.indexMask ∧ t.life ≠ .elaborating) ∧
  (∀ (c : Word) (s : State), s.life ≠ .elaborating → exec (.construct c) s = .refused .alreadyConstructed)

/-- R29, R103: the parameters of R10 are "inputs or constants of the step relation", set "at elaboration, never during
operation": no step changes `DATA_W`, the form, or the number of stages. That `CONSTRUCT` keeps them too is the model's
reading: they are fixed before it (DEDUCED, notes/assumptions/9.md). -/
def Obligations.StepsKeepParameters : Prop :=
  ∀ s t : State, step s = .next t →
    t.dataW = s.dataW ∧ (s.crossing = .sync ↔ t.crossing = .sync) ∧
    (∀ r r', s.crossing = .async r → t.crossing = .async r' →
      r'.ts.length = r.ts.length ∧ r'.hs.length = r.hs.length)

/-- R213: nothing but `CONSTRUCT` with an illegal capacity raises anything, in any state and with any operand. -/
def Obligations.OnlyConstructRaises : Prop :=
  (∀ (i : Instr) (s : State) (f : Fault), exec i s = .fault f →
    ∃ c, i = .construct c ∧ legalCapacity c = false ∧ s.life = .elaborating ∧ f = .configError c) ∧
  (∀ (s : State) (f : Fault), step s = .fault f →
    ∃ w rest c, s.inputs = .command w :: rest ∧ decode s.dataW w = .ok (.construct c) ∧ legalCapacity c = false ∧
      s.life = .elaborating ∧ f = .configError c)

/-- R215 case c, R242, R244, R245: while the reset input is low (it goes low with idle words, or was low already) the registers
hold their reset values and the outputs are `PR = 0b00` and `CR = 0b01_0...0` (95_test_vectors.md section 2.8), whatever
the ports show; a request is ignored; no step of the block's own agents and no clock edge changes anything; and from the
input going high on the block runs. That it does so from every state in which reset is low, also where the low phase had
none of the clock edges R241 asks for, is the model's choice (DESIGN CHOICE, notes/assumptions/17.md); the record that
reset is low is the model's (notes/assumptions/4.md). -/
def Obligations.RequestsAreIgnoredInReset : Prop :=
  (∀ (pc cc : Nat) (s : State), pc < 2 ^ (1 + s.dataW) → cc < 2 →
    s.life = .inReset ∨ (s.life ≠ .elaborating ∧ pc.testBit s.dataW = false ∧ cc.testBit 0 = false) →
    ∃ t, runInput (.resetLow pc cc) s = .next t ∧ t.life = .inReset ∧
      t.head = 0 ∧ t.tail = 0 ∧ tailP t = 0 ∧ headC t = 0 ∧ (∀ i, memRead i t = 0) ∧ t.ghost = Ghost.zero ∧
      t.capacity = s.capacity ∧ t.indexMask = s.indexMask ∧
      t.pOut.word = 0b00#2 ∧ (t.cOut.word s.dataW).toNat = 2 ^ s.dataW) ∧
  (∀ s : State, s.life = .inReset →
    (∀ v, v < 2 ^ s.dataW → exec (.push v) s = .next { s with pOut := { pushOk := false, full := false } }) ∧
    exec .pIdle s = .next { s with pOut := { pushOk := false, full := false } } ∧
    exec .pop s = .next { s with cOut := { popOk := false, empty := true, rdData := 0 } } ∧
    exec .cIdle s = .next { s with cOut := { popOk := false, empty := true, rdData := 0 } } ∧
    runInput .resetHigh s = .next { s with life := .running }) ∧
  (∀ (x : Input) (s t : State), BlockInv s → s.life = .inReset → environmentInput s.dataW x = false →
    runInput x s = .next t → abstract t = abstract s)

/-- R246, R255, R223 and U4: the reset input going low while a port shows `push_req == 1` or `pop_req == 1` is outside the
contract and stops under its own name. -/
def Obligations.ResetUnderTrafficIsRefused : Prop :=
  ∀ (pc cc : Nat) (s : State), pc < 2 ^ (1 + s.dataW) → cc < 2 → s.life = .constructed ∨ s.life = .running →
    pc.testBit s.dataW = true ∨ cc.testBit 0 = true →
    runInput (.resetLow pc cc) s = .refused .resetUnderTraffic

/-- R243, R255, R97, R124 and U8: on an instance no `RESET` has followed yet, every operation but `RESET` stops under its
own name, and no input but a reset goes on; where no instance exists, only `CONSTRUCT` does. -/
def Obligations.UseBeforeResetIsRefused : Prop :=
  (∀ (i : Instr) (s : State), s.life = .constructed → i.agent ≠ .environment → i.wf s.dataW = true →
    exec i s = .refused .usedBeforeReset) ∧
  (∀ (i : Instr) (s : State), s.life = .elaborating → (∀ c, i ≠ .construct c) → i.wf s.dataW = true →
    exec i s = .refused .noInstance) ∧
  (∀ (x : Input) (s t : State), s.life = .constructed → runInput x s = .next t →
    (∃ w, x = .command w ∧ decode s.dataW w = .ok .reset) ∨ ∃ pc cc, x = .resetLow pc cc) ∧
  (∀ (x : Input) (s t : State), s.life = .elaborating → runInput x s = .next t →
    ∃ w c, x = .command w ∧ decode s.dataW w = .ok (.construct c))

/-! ## Enqueue (41_push.md) -/

/-- R135 (steps 1 to 6), R139, R140, R146, R189: a `PUSH` that finds room completes, with its whole effect and
everything it leaves alone. When `CLOCKING = SYNC` the consumer's view is `head` itself, so `HC` moves with it. -/
def Obligations.PushStoresAndPublishes : Prop :=
  ∀ (v : Slot) (s : State), s.life = .running → v < 2 ^ s.dataW → Memory.wf s.storage →
    s.head - tailP s ≠ s.capacity →
    ∃ t, exec (.push v) s = .next t ∧
      t.pOut = { pushOk := true, full := false } ∧ t.pOut.word = 0b10#2 ∧
      t.head = s.head + 1 ∧
      (∀ i, memRead i t = if i = (s.head &&& s.indexMask).toNat then v else memRead i s) ∧
      (s.crossing = .sync → t.crossing = .sync ∧ t.ghost.hc = s.ghost.hc + 1) ∧
      (∀ r, s.crossing = .async r →
        t.crossing = .async { r with headGrayPrev := r.headGray, headGray := bin2gray (s.head + 1) } ∧
        t.ghost.hc = s.ghost.hc) ∧
      t.ghost.pushed = s.ghost.pushed + 1 ∧ t.ghost.ins = s.ghost.ins ++ [v] ∧
      t.ghost.popped = s.ghost.popped ∧ t.ghost.tp = s.ghost.tp ∧ t.ghost.outs = s.ghost.outs ∧
      t.capacity = s.capacity ∧ t.indexMask = s.indexMask ∧ t.dataW = s.dataW ∧ t.tail = s.tail ∧
      tailP t = tailP s ∧ t.cOut = s.cOut ∧ t.life = s.life ∧ t.inputs = s.inputs

/-- R138: a `PUSH` that finds the buffer full completes with `false` and changes nothing but the response. -/
def Obligations.PushFailsWhenFull : Prop :=
  ∀ (v : Slot) (s : State), s.life = .running → v < 2 ^ s.dataW → s.head - tailP s = s.capacity →
    ∃ t, exec (.push v) s = .next t ∧ t = { s with pOut := { pushOk := false, full := true } } ∧ t.pOut.word = 0b01#2

/-- R148 case e, R45: a `PUSH` at `head == 2^64 - 1` writes the last slot and leaves `head == 0`; the modular difference
stays the true one across the wrap. -/
def Obligations.PushCrossesCursorWrap : Prop :=
  ∀ (v : Slot) (s : State), s.life = .running → v < 2 ^ s.dataW → Memory.wf s.storage →
    s.head = 0xFFFFFFFFFFFFFFFF → s.head - tailP s ≠ s.capacity →
    ∃ t, exec (.push v) s = .next t ∧ t.head = 0 ∧ memRead s.indexMask.toNat t = v ∧
      t.head - tailP t = (s.head - tailP s) + 1

/-- R147, R172: on a running block the idle commands complete and change nothing but the response words, which show no
result and the flag as it is. -/
def Obligations.IdleCommandsChangeNothing : Prop :=
  ∀ s : State, s.life = .running →
    exec .pIdle s = .next { s with pOut := { pushOk := false, full := decide (s.head - tailP s = s.capacity) } } ∧
    exec .cIdle s = .next { s with cOut := { popOk := false, empty := decide (headC s = s.tail), rdData := 0 } }

/-! ## Dequeue (42_pop.md) -/

/-- R160 (steps 1 to 6), R164, R165, R171, R189: a `POP` that finds a value completes, with its whole effect and
everything it leaves alone; the slot is not changed. -/
def Obligations.PopReturnsAndPublishes : Prop :=
  ∀ s : State, s.life = .running → s.tail ≠ headC s →
    ∃ t, exec .pop s = .next t ∧
      t.cOut = { popOk := true, empty := false, rdData := memRead (s.tail &&& s.indexMask).toNat s } ∧
      t.tail = s.tail + 1 ∧
      (∀ i, memRead i t = memRead i s) ∧
      (s.crossing = .sync → t.crossing = .sync ∧ t.ghost.tp = s.ghost.tp + 1) ∧
      (∀ r, s.crossing = .async r →
        t.crossing = .async { r with tailGrayPrev := r.tailGray, tailGray := bin2gray (s.tail + 1) } ∧
        t.ghost.tp = s.ghost.tp) ∧
      t.ghost.popped = s.ghost.popped + 1 ∧ t.ghost.outs = s.ghost.outs ++ [t.cOut.rdData] ∧
      t.ghost.pushed = s.ghost.pushed ∧ t.ghost.hc = s.ghost.hc ∧ t.ghost.ins = s.ghost.ins ∧
      t.capacity = s.capacity ∧ t.indexMask = s.indexMask ∧ t.dataW = s.dataW ∧ t.head = s.head ∧
      headC t = headC s ∧ t.pOut = s.pOut ∧ t.life = s.life ∧ t.inputs = s.inputs

/-- R163 and R178 (the 0 is the spec's decision D9, 90_conflicts.md C1): a `POP` that finds the buffer empty completes
with `(0, false)` and changes nothing but the response. -/
def Obligations.PopFailsWhenEmpty : Prop :=
  ∀ s : State, s.life = .running → s.tail = headC s →
    ∃ t, exec .pop s = .next t ∧ t = { s with cOut := { popOk := false, empty := true, rdData := 0 } } ∧
      (t.cOut.word s.dataW).toNat = 2 ^ s.dataW

/-- R164, R177: in a state that meets the invariant, a `POP` that finds a value returns the value of push number
`POPPED`, and appends it to `OUT`; the response word shows all its `DATA_W` bits (R96). -/
def Obligations.PopReturnsOldestPushedValue : Prop :=
  ∀ s : State, BlockInv s → s.life = .running → empty s = false →
    ∃ t v, exec .pop s = .next t ∧ s.ghost.ins[s.ghost.popped]? = some v ∧ t.cOut.popOk = true ∧ t.cOut.rdData = v ∧
      t.ghost.outs = s.ghost.outs ++ [v] ∧ (t.cOut.word s.dataW).toNat = 2 ^ (s.dataW + 1) + v

/-! ## The abstract synchronising steps (43_sync.md section 1) -/

/-- R185, R187: `SYNC_TAIL(d)` with `d` up to `tail -64 tail_p` completes, moves `tail_p` forward by `d` and touches
nothing but its own view (which in `ASYNC` is read from the chain `ts`; what the inner stages become is the model's,
notes/assumptions/8.md). Every state is one of a block that has been reset (R243). -/
def Obligations.SyncTailMovesViewForward : Prop :=
  ∀ (d : Nat) (s : State), s.life = .inReset ∨ s.life = .running → d ≤ (s.tail - tailP s).toNat →
    (∀ r, s.crossing = .async r → r.ts ≠ []) →
    ∃ t, exec (.syncTail d) s = .next t ∧
      tailP t = tailP s + BitVec.ofNat 64 d ∧
      (s.crossing = .sync → t.crossing = .sync) ∧
      (∀ r, s.crossing = .async r → ∃ ts, t.crossing = .async { r with ts := ts } ∧ ts.length = r.ts.length) ∧
      t.ghost = { s.ghost with tp := s.ghost.tp + d } ∧
      t.head = s.head ∧ t.tail = s.tail ∧ headC t = headC s ∧ t.storage = s.storage ∧
      t.capacity = s.capacity ∧ t.indexMask = s.indexMask ∧ t.dataW = s.dataW ∧ t.pOut = s.pOut ∧ t.cOut = s.cOut ∧
      t.life = s.life ∧ t.inputs = s.inputs

/-- R186, R187: the same of `SYNC_HEAD(d)` and `head_c` (notes/assumptions/8.md for the inner stages of `hs`). -/
def Obligations.SyncHeadMovesViewForward : Prop :=
  ∀ (d : Nat) (s : State), s.life = .inReset ∨ s.life = .running → d ≤ (s.head - headC s).toNat →
    (∀ r, s.crossing = .async r → r.hs ≠ []) →
    ∃ t, exec (.syncHead d) s = .next t ∧
      headC t = headC s + BitVec.ofNat 64 d ∧
      (s.crossing = .sync → t.crossing = .sync) ∧
      (∀ r, s.crossing = .async r → ∃ hs, t.crossing = .async { r with hs := hs } ∧ hs.length = r.hs.length) ∧
      t.ghost = { s.ghost with hc := s.ghost.hc + d } ∧
      t.head = s.head ∧ t.tail = s.tail ∧ tailP t = tailP s ∧ t.storage = s.storage ∧
      t.capacity = s.capacity ∧ t.indexMask = s.indexMask ∧ t.dataW = s.dataW ∧ t.pOut = s.pOut ∧ t.cOut = s.cOut ∧
      t.life = s.life ∧ t.inputs = s.inputs

/-- R185, R186, 95_test_vectors.md section 2.4: "a view never passes its cursor"; a larger `d` is no step of the machine
and stops under its own name. -/
def Obligations.ViewNeverPassesCursor : Prop :=
  ∀ (d : Nat) (s : State), s.life = .inReset ∨ s.life = .running →
    ((s.tail - tailP s).toNat < d → exec (.syncTail d) s = .refused .viewPastCursor) ∧
    ((s.head - headC s).toNat < d → exec (.syncHead d) s = .refused .viewPastCursor)

/-- R185, R186 (flags): a synchronising step may lower `full` or `empty`, never raise it. -/
def Obligations.SyncNeverRaisesFlag : Prop :=
  ∀ (d : Nat) (s t : State), BlockInv s →
    (exec (.syncTail d) s = .next t → full t = true → full s = true) ∧
    (exec (.syncHead d) s = .next t → empty t = true → empty s = true)

/-- R187: when the bound on `d` holds, `SYNC_TAIL` commutes with `POP`, `C_IDLE`, `SYNC_HEAD` and `P_IDLE`, and
`SYNC_HEAD` with `PUSH`, `P_IDLE`, `SYNC_TAIL` and `C_IDLE`. Of `P_IDLE` (and `C_IDLE`), whose output shows the flag of
the very view that moves, the two orders agree in all but that output, which the model stores (notes/assumptions/5.md);
that both orders agree in the inner stages of the chains too rests on notes/assumptions/8.md. -/
def Obligations.SyncCommutesWithOtherSide : Prop :=
  ∀ (d : Nat) (s : State), BlockInv s → s.life = .inReset ∨ s.life = .running →
    (d ≤ tailLag s → ∃ u, exec (.syncTail d) s = .next u ∧
      andThen (exec .pop s) (exec (.syncTail d)) = exec .pop u ∧
      andThen (exec .cIdle s) (exec (.syncTail d)) = exec .cIdle u ∧
      (∀ e, e ≤ headLag s → andThen (exec (.syncHead e) s) (exec (.syncTail d)) = exec (.syncHead e) u) ∧
      ∃ a b, andThen (exec .pIdle s) (exec (.syncTail d)) = .next a ∧ exec .pIdle u = .next b ∧
        { a with pOut := b.pOut } = b) ∧
    (d ≤ headLag s → ∃ u, exec (.syncHead d) s = .next u ∧
      (∀ v, andThen (exec (.push v) s) (exec (.syncHead d)) = exec (.push v) u) ∧
      andThen (exec .pIdle s) (exec (.syncHead d)) = exec .pIdle u ∧
      (∀ e, e ≤ tailLag s → andThen (exec (.syncTail e) s) (exec (.syncHead d)) = exec (.syncTail e) u) ∧
      ∃ a b, andThen (exec .cIdle s) (exec (.syncHead d)) = .next a ∧ exec .cIdle u = .next b ∧
        { a with cOut := b.cOut } = b)

/-- R25, R26, R189: when `CLOCKING = SYNC` the views are the cursors in every state, so the only `SYNC_TAIL` and
`SYNC_HEAD` steps there are have `d == 0` and change nothing, and the flags are exact. -/
def Obligations.SyncFormViewsAreCursors : Prop :=
  ∀ s : State, s.crossing = .sync →
    tailP s = s.tail ∧ headC s = s.head ∧
    (s.life = .inReset ∨ s.life = .running →
      exec (.syncTail 0) s = .next s ∧ exec (.syncHead 0) s = .next s ∧
      ∀ d, exec (.syncTail (d + 1)) s = .refused .viewPastCursor ∧
        exec (.syncHead (d + 1)) s = .refused .viewPastCursor) ∧
    (full s = true ↔ s.head - s.tail = s.capacity) ∧ (empty s = true ↔ s.head = s.tail)

/-! ## Invariants, flags, order (10_state.md, 20_memory.md) -/

/-- R42: the invariant holds after reset of every instance with legal parameters, so at `State.reset`. It also holds after
construction with a legal capacity, before any `RESET`: R120 and R122 set the cursors, views and slots to 0 there, while
R243 says of that state that "the invariants need not hold", so this clause is the model's reading (DEDUCED,
notes/assumptions/4.md; notes/assumptions/9.md for the gray registers, the chains and the ghost values). -/
def Obligations.InvariantHoldsAtReset : Prop :=
  BlockInv State.reset ∧ (∀ p : Config.Params, p.wf = true → BlockInv (State.resetOf p)) ∧
  ∀ (c : Word) (s t : State), ParametersOk s → exec (.construct c) s = .next t → BlockInv t

/-- R34, R46 and R28: every step keeps the invariant, from every state that meets it: the view invariants, the register
forms of the counts, the canonical slot array of values of `DATA_W` bits, the content of the queue, the gray registers and
the chains, and the reset values while reset is low. That it holds after a low phase without the clock edges of R241 rests
on notes/assumptions/17.md. -/
def Obligations.EveryStepKeepsInvariant : Prop :=
  ∀ s t : State, BlockInv s → step s = .next t → BlockInv t

/-- R177, R46: for every instance with legal parameters and every schedule of inputs, the n-th successful pop returned
the value of the n-th successful push, and the values pushed and not yet popped are those the slots hold, so none is
lost, duplicated or invented. `IN` and `OUT` are what `PushStoresAndPublishes` and `PopReturnsAndPublishes` say. Of
schedules with a low phase of reset without the clock edges of R241 it rests on notes/assumptions/17.md. -/
def Obligations.EveryScheduleDeliversFifo : Prop :=
  ∀ (p : Config.Params) (xs : List Input) (t : State), p.wf = true → feed xs (State.resetOf p) = .next t →
    t.ghost.popped ≤ t.ghost.pushed ∧ t.ghost.ins.length = t.ghost.pushed ∧ t.ghost.outs.length = t.ghost.popped ∧
    (∀ n, n < t.ghost.popped → t.ghost.outs[n]? = t.ghost.ins[n]?) ∧
    (∀ k, t.ghost.popped ≤ k → k < t.ghost.pushed → t.ghost.ins[k]? = some (memRead (k % depth t) t))

/-- R30, R31, R32, and the register forms of R34: no more is popped than pushed and no more than `DEPTH` held, over the
counts and over the registers; `head -64 tail == DEPTH` is full, `head == tail` is empty, and `head -64 tail` is the
number of unconsumed elements. -/
def Obligations.RegistersStayWithinDepth : Prop :=
  ∀ s : State, BlockInv s →
    s.ghost.popped ≤ s.ghost.pushed ∧ s.ghost.pushed - s.ghost.popped ≤ depth s ∧
    (s.head - s.tail).toNat ≤ depth s ∧ (s.head - headC s).toNat ≤ depth s ∧ (headC s - s.tail).toNat ≤ depth s ∧
    (s.tail - tailP s).toNat ≤ depth s ∧ (s.head - tailP s).toNat ≤ depth s ∧
    ((s.head - s.tail).toNat = depth s ↔ s.ghost.pushed - s.ghost.popped = depth s) ∧
    (s.head = s.tail ↔ s.ghost.pushed = s.ghost.popped) ∧
    (s.head - s.tail).toNat = s.ghost.pushed - s.ghost.popped

/-- R37, R39: the flags are pessimistic, never optimistic, and exact when the view is up to date. -/
def Obligations.FlagsArePessimistic : Prop :=
  ∀ s : State, BlockInv s →
    (full s = false → s.ghost.pushed < s.ghost.popped + depth s) ∧
    (empty s = false → s.ghost.popped < s.ghost.pushed) ∧
    (full s = true ↔ s.ghost.pushed = s.ghost.tp + depth s) ∧
    (empty s = true ↔ s.ghost.hc = s.ghost.popped) ∧
    (tailP s = s.tail → (full s = true ↔ s.ghost.pushed = s.ghost.popped + depth s)) ∧
    (headC s = s.head → (empty s = true ↔ s.ghost.pushed = s.ghost.popped))

/-- R35, R45, R64: the slot a cursor selects is the count modulo `DEPTH`, always in range, and `DEPTH` is `2^AW` with
`AW` from 1 to 63. -/
def Obligations.SlotIsCountModDepth : Prop :=
  ∀ s : State, BlockInv s →
    writeIndex s = s.ghost.pushed % depth s ∧ readIndex s = s.ghost.popped % depth s ∧
    writeIndex s < depth s ∧ readIndex s < depth s ∧
    depth s = 2 ^ addressWidth s ∧ 1 ≤ addressWidth s ∧ addressWidth s ≤ 63

/-- R71, R72, R73, R81: the handoff of a slot. A slot below the consumer's view holds its pushed value until it is popped;
a pop that succeeds reads below that view; a slot the producer sees as freed has been read, and its value returned; a
push that succeeds writes no slot the consumer may still read. -/
def Obligations.SlotHandoffIsOrdered : Prop :=
  ∀ s : State, BlockInv s →
    (∀ k, s.ghost.popped ≤ k → k + 1 ≤ s.ghost.hc → s.ghost.ins[k]? = some (memRead (k % depth s) s)) ∧
    (empty s = false → s.ghost.popped < s.ghost.hc) ∧
    (∀ k, k + 1 ≤ s.ghost.tp → k < s.ghost.popped ∧ ∃ v, s.ghost.outs[k]? = some v ∧ s.ghost.ins[k]? = some v) ∧
    (full s = false → ∀ k, s.ghost.popped ≤ k → k < s.ghost.pushed → k % depth s ≠ writeIndex s)

/-- R69, R81: when both a push and a pop would succeed, they address different slots. -/
def Obligations.WriteAndReadSlotsDiffer : Prop :=
  ∀ s : State, BlockInv s → full s = false → empty s = false → writeIndex s ≠ readIndex s

/-- R36, R149, R174: a successful `PUSH` takes the fill from `n` to `n + 1`, a successful `POP` to `n - 1`, nothing else
changes it; so a push never leaves from full and a pop never from empty. -/
def Obligations.RegionsMoveByPushAndPop : Prop :=
  ∀ s : State, BlockInv s → s.life = .running →
    (∀ v, v < 2 ^ s.dataW → full s = false → ∃ t, exec (.push v) s = .next t ∧ fill t = fill s + 1 ∧
      region s ≠ .fullRegion ∧ region t ≠ .emptyRegion) ∧
    (empty s = false → ∃ t, exec .pop s = .next t ∧ fill t + 1 = fill s ∧
      region s ≠ .emptyRegion ∧ region t ≠ .fullRegion) ∧
    (∀ i t, i.agent ≠ .environment → exec i s = .next t → ¬ ((∃ v, i = .push v) ∧ full s = false) →
      ¬ (i = .pop ∧ empty s = false) → fill t = fill s ∧ region t = region s)

/-- R23, R24, R27: in any step by which the environment does not act, each cursor stays or advances by exactly 1, and it
advances only with a response that says so. -/
def Obligations.CursorsAdvanceByOne : Prop :=
  ∀ (s t : State) (x : Input) (rest : List Input), s.inputs = x :: rest → environmentInput s.dataW x = false →
    step s = .next t →
    (t.head = s.head ∨ (t.head = s.head + 1 ∧ t.pOut = { pushOk := true, full := false })) ∧
    (t.tail = s.tail ∨ (t.tail = s.tail + 1 ∧ t.cOut.popOk = true ∧ t.cOut.empty = false))

/-- R74: a view never returns to an older value and never shows one its cursor has not reached. -/
def Obligations.ViewsNeverGoBack : Prop :=
  ∀ (s t : State) (x : Input) (rest : List Input), BlockInv s → s.inputs = x :: rest → environmentInput s.dataW x = false →
    step s = .next t →
    ∃ d e, t.ghost.tp = s.ghost.tp + d ∧ tailP t = tailP s + BitVec.ofNat 64 d ∧ t.ghost.tp ≤ t.ghost.popped ∧
      t.ghost.hc = s.ghost.hc + e ∧ headC t = headC s + BitVec.ofNat 64 e ∧ t.ghost.hc ≤ t.ghost.pushed

/-- R41, R219: what each agent may write. The producer writes `head`, one slot and its response; the consumer `tail` and
its response; each synchronising agent its own chain. -/
def Obligations.AgentsWriteOnlyTheirOwn : Prop :=
  ∀ (i : Instr) (s t : State), Memory.wf s.storage → exec i s = .next t →
    (i.agent = .producer →
      t.tail = s.tail ∧ tailP t = tailP s ∧ t.cOut = s.cOut ∧ (∀ j, j ≠ writeIndex s → memRead j t = memRead j s) ∧
      ∀ r, s.crossing = .async r → ∃ r', t.crossing = .async r' ∧ r'.tailGray = r.tailGray ∧ r'.ts = r.ts ∧
        r'.hs = r.hs) ∧
    (i.agent = .consumer →
      t.head = s.head ∧ headC t = headC s ∧ t.pOut = s.pOut ∧ t.storage = s.storage ∧
      ∀ r, s.crossing = .async r → ∃ r', t.crossing = .async r' ∧ r'.headGray = r.headGray ∧ r'.ts = r.ts ∧
        r'.hs = r.hs) ∧
    (i.agent = .st →
      t.head = s.head ∧ t.tail = s.tail ∧ headC t = headC s ∧ t.storage = s.storage ∧
      ∀ r, s.crossing = .async r → ∃ r', t.crossing = .async r' ∧ r'.headGray = r.headGray ∧
        r'.tailGray = r.tailGray ∧ r'.hs = r.hs) ∧
    (i.agent = .sh →
      t.head = s.head ∧ t.tail = s.tail ∧ tailP t = tailP s ∧ t.storage = s.storage ∧
      ∀ r, s.crossing = .async r → ∃ r', t.crossing = .async r' ∧ r'.headGray = r.headGray ∧
        r'.tailGray = r.tailGray ∧ r'.ts = r.ts)

/-- R33: the ghost state is never read: a step does the same to everything else whatever the ghost state is. -/
def Obligations.GhostIsNeverRead : Prop :=
  ∀ (s : State) (g : Ghost),
    mapNext eraseGhost (step { s with ghost := g }) = mapNext eraseGhost (step s)

/-- R145, R170, R261: each side's response depends only on its own request, its own cursor, its view and (for a pop) the
addressed slot, on a block as far in its life; and in a cycle of `SYNC` it does not depend on the other side's command
word. -/
def Obligations.ResponsesStayOnTheirSide : Prop :=
  (∀ (i : Instr) (s s' t t' : State), i.agent = .producer → s.head = s'.head → tailP s = tailP s' →
    s.capacity = s'.capacity → s.life = s'.life → exec i s = .next t → exec i s' = .next t' → t.pOut = t'.pOut) ∧
  (∀ (i : Instr) (s s' t t' : State), i.agent = .consumer → s.tail = s'.tail → headC s = headC s' →
    s.indexMask = s'.indexMask → memRead (readIndex s) s = memRead (readIndex s') s' → s.life = s'.life →
    exec i s = .next t → exec i s' = .next t' → t.cOut = t'.cOut) ∧
  (∀ (pc pc' cc cc' : Nat) (s t u w : State), runInput (.clk pc cc) s = .next t →
    runInput (.clk pc cc') s = .next u → runInput (.clk pc' cc) s = .next w → t.pOut = u.pOut ∧ t.cOut = w.cOut)

/-! ## The clocked form SYNC -/

/-- R258: a cycle of `SYNC`, in which both commands use the values from its start, equals two atomic steps: the
producer's first when the buffer is full, the consumer's first when it is empty, either order in between. -/
def Obligations.SyncCycleIsTwoAtomicSteps : Prop :=
  ∀ (pc cc : Nat) (s t : State), BlockInv s → runInput (.clk pc cc) s = .next t →
    (empty s = false → andThen (exec (decodePC s.dataW pc) s) (exec (decodeCC cc)) = .next t) ∧
    (full s = false → andThen (exec (decodeCC cc) s) (exec (decodePC s.dataW pc)) = .next t)

/-- R258 (consequences) and R262 (the last sentence): in a full buffer the push fails although the pop succeeds in the
same cycle; in an empty one the pop fails although the push succeeds; in a partial one both succeed and the fill is
unchanged. What a push stored can be popped in the next cycle, and the slot a pop freed refilled. -/
def Obligations.SameCyclePushAndPop : Prop :=
  ∀ (v : Slot) (pc cc : Nat) (s : State), BlockInv s → s.life = .running → s.crossing = .sync →
    decode s.dataW ⟨.pc, pc⟩ = .ok (.push v) → decode s.dataW ⟨.cc, cc⟩ = .ok .pop →
    ∃ t, runInput (.clk pc cc) s = .next t ∧
      (region s = .fullRegion → t.pOut.pushOk = false ∧ t.cOut.popOk = true ∧ fill t + 1 = fill s) ∧
      (region s = .emptyRegion → t.pOut.pushOk = true ∧ t.cOut.popOk = false ∧ fill t = fill s + 1) ∧
      (region s = .partlyFilled → t.pOut.pushOk = true ∧ t.cOut.popOk = true ∧ fill t = fill s) ∧
      (t.pOut.pushOk = true → empty t = false) ∧ (t.cOut.popOk = true → full t = false)

/-- R76, R189: every step of the form `SYNC` is steps of the abstract machine that the form `ASYNC` also takes: the same
operation, then a `SYNC_TAIL` and a `SYNC_HEAD` of at most 1, from any `ASYNC` state that looks the same. -/
def Obligations.SyncFormIsAbstractMachine : Prop :=
  ∀ (i : Instr) (s a t : State) (r : AsyncRegs), BlockInv s → BlockInv a → s.crossing = .sync → a.crossing = .async r →
    abstract a = abstract s → exec i s = .next t →
    ∃ d e a1 a2 a3, d ≤ 1 ∧ e ≤ 1 ∧ exec i a = .next a1 ∧ exec (.syncTail d) a1 = .next a2 ∧
      exec (.syncHead e) a2 = .next a3 ∧ abstract a3 = abstract t

/-! ## The clocked form ASYNC: gray code and synchroniser chains -/

/-- R192, R193: the two conversions bit by bit. -/
def Obligations.GrayCodeBitByBit : Prop :=
  ∀ b : Word,
    (bin2gray b).getLsbD 63 = b.getLsbD 63 ∧
    (∀ i, i ≤ 62 → (bin2gray b).getLsbD i = (b.getLsbD i ^^ b.getLsbD (i + 1))) ∧
    (gray2bin b).getLsbD 63 = b.getLsbD 63 ∧
    (∀ i, i ≤ 62 → (gray2bin b).getLsbD i = ((gray2bin b).getLsbD (i + 1) ^^ b.getLsbD i))

/-- R200: the conversions are inverse to each other. -/
def Obligations.GrayCodeInverts : Prop :=
  ∀ b : Word, gray2bin (bin2gray b) = b ∧ bin2gray (gray2bin b) = b

/-- R200: the codes of successive values, across the wrap too, differ in exactly one bit. -/
def Obligations.SuccessiveGrayCodesDifferInOneBit : Prop :=
  ∀ b : Word, ∃ i, i < 64 ∧ ∀ j, j < 64 →
    ((bin2gray b).getLsbD j ≠ (bin2gray (b + 1)).getLsbD j ↔ j = i)

/-- R196: a sample is the code of the cursor's present count or, only when it is late, of the one before; it is never
older than the sample before it, which is the count `m`, between the view and the cursor, that the first stage holds; and
both are admitted when the cursor changed at its last edge and no sample has been taken since (R262,
notes/assumptions/7.md). -/
def Obligations.SampleIsOldOrNewNeverOlder : Prop :=
  ∀ (late : Bool) (s : State) (r : AsyncRegs), BlockInv s → s.crossing = .async r →
    (∃ n m, (n = s.ghost.pushed ∨ (late = true ∧ n + 1 = s.ghost.pushed)) ∧
      sample r.headGray r.headGrayPrev (r.hs.headD 0) late = grayOfCount n ∧ r.hs.headD 0 = grayOfCount m ∧
      s.ghost.hc ≤ m ∧ m ≤ n) ∧
    (∃ n m, (n = s.ghost.popped ∨ (late = true ∧ n + 1 = s.ghost.popped)) ∧
      sample r.tailGray r.tailGrayPrev (r.ts.headD 0) late = grayOfCount n ∧ r.ts.headD 0 = grayOfCount m ∧
      s.ghost.tp ≤ m ∧ m ≤ n) ∧
    (r.headGrayPrev ≠ r.headGray → r.hs.headD 0 ≠ r.headGray →
      sample r.headGray r.headGrayPrev (r.hs.headD 0) true = r.headGrayPrev) ∧
    (r.tailGrayPrev ≠ r.tailGray → r.ts.headD 0 ≠ r.tailGray →
      sample r.tailGray r.tailGrayPrev (r.ts.headD 0) true = r.tailGrayPrev)

/-- R199: every edge of a clock of `ASYNC` is, to the abstract machine, the command of that cycle followed by one step
`SYNC_TAIL(d)` (at `wclk`) or `SYNC_HEAD(d)` (at `rclk`), with `d` the change of the view. -/
def Obligations.ClockEdgesAreAbstractSteps : Prop :=
  (∀ (pc : Nat) (late : Bool) (s t : State), BlockInv s → runInput (.wclk pc late) s = .next t →
    ∃ u w, exec (decodePC s.dataW pc) s = .next u ∧ exec (.syncTail (tailP t - tailP s).toNat) u = .next w ∧
      abstract w = abstract t) ∧
  (∀ (cc : Nat) (late : Bool) (s t : State), BlockInv s → runInput (.rclk cc late) s = .next t →
    ∃ u w, exec (decodeCC cc) s = .next u ∧ exec (.syncHead (headC t - headC s).toNat) u = .next w ∧
      abstract w = abstract t)

/-- R194, R195, R196, R197: the views are read from the last stages, in every state; an edge takes a sample of the other
domain's gray register into the first stage of its own chain, shifts the others by one, every right-hand side the value
before the edge, and leaves the other chain. -/
def Obligations.EdgesShiftOwnChain : Prop :=
  (∀ (s : State) (r : AsyncRegs), s.crossing = .async r →
    (∀ g, r.hs[r.hs.length - 1]? = some g → headC s = gray2bin g) ∧
    (∀ g, r.ts[r.ts.length - 1]? = some g → tailP s = gray2bin g)) ∧
  (∀ (pc : Nat) (late : Bool) (s t : State) (r : AsyncRegs), s.crossing = .async r →
    runInput (.wclk pc late) s = .next t → ∃ r', t.crossing = .async r' ∧ r'.hs = r.hs ∧
      r'.ts.length = r.ts.length ∧
      (∀ j, j + 1 < r.ts.length → r'.ts[j + 1]? = r.ts[j]?) ∧
      (r.ts ≠ [] → r'.ts[0]? = some (sample r.tailGray r.tailGrayPrev (r.ts.headD 0) late)) ∧
      (late = false → r.ts ≠ [] → r'.ts[0]? = some r.tailGray)) ∧
  (∀ (cc : Nat) (late : Bool) (s t : State) (r : AsyncRegs), s.crossing = .async r →
    runInput (.rclk cc late) s = .next t → ∃ r', t.crossing = .async r' ∧ r'.ts = r.ts ∧
      r'.hs.length = r.hs.length ∧
      (∀ j, j + 1 < r.hs.length → r'.hs[j + 1]? = r.hs[j]?) ∧
      (r.hs ≠ [] → r'.hs[0]? = some (sample r.headGray r.headGrayPrev (r.hs.headD 0) late)) ∧
      (late = false → r.hs ≠ [] → r'.hs[0]? = some r.headGray))

/-- R262, with `N = SYNC_STAGES`: whatever the two clocks do, in any interleaving, with any commands and any choices of
old or new sample, every edge completes, and the count of `head` that stood at the start is in the consumer's view after
`N + 1` edges of `rclk`, after `N` when the first of them samples the new value; a `POP` that it lets through succeeds
from there on; and after fewer than `N` edges no later `head` is in the view, a settled chain's view being still the old
one. -/
def Obligations.HeadCrossesInBoundedEdges : Prop :=
  ∀ (s : State) (r : AsyncRegs) (xs : List Input), BlockInv s → s.life = .running → s.crossing = .async r →
    (∀ x ∈ xs, asyncEdge s.dataW x = true) →
    ∃ t, feed xs s = .next t ∧
      (r.hs.length + 1 ≤ xs.countP isRclk →
        s.ghost.pushed ≤ t.ghost.hc ∧ (t.ghost.popped < s.ghost.pushed → empty t = false) ∧
        ((∀ x ∈ xs, isWclk x = false) → headC t = s.head)) ∧
      (∀ ys cc zs, xs = ys ++ .rclk cc false :: zs → (∀ y ∈ ys, isRclk y = false) →
        r.hs.length ≤ zs.countP isRclk + 1 → s.ghost.pushed ≤ t.ghost.hc) ∧
      (xs.countP isRclk < r.hs.length → t.ghost.hc ≤ s.ghost.pushed ∧
        ((∀ h ∈ r.hs, h = lastStage r.hs) → headC t = headC s))

/-- R262: the same for `tail` and `tail_p` at the edges of `wclk`, and the `PUSH` that the freed slots let through. -/
def Obligations.TailCrossesInBoundedEdges : Prop :=
  ∀ (s : State) (r : AsyncRegs) (xs : List Input), BlockInv s → s.life = .running → s.crossing = .async r →
    (∀ x ∈ xs, asyncEdge s.dataW x = true) →
    ∃ t, feed xs s = .next t ∧
      (r.ts.length + 1 ≤ xs.countP isWclk →
        s.ghost.popped ≤ t.ghost.tp ∧ (t.ghost.pushed < s.ghost.popped + depth s → full t = false) ∧
        ((∀ x ∈ xs, isRclk x = false) → tailP t = s.tail)) ∧
      (∀ ys pc zs, xs = ys ++ .wclk pc false :: zs → (∀ y ∈ ys, isWclk y = false) →
        r.ts.length ≤ zs.countP isWclk + 1 → s.ghost.popped ≤ t.ghost.tp) ∧
      (xs.countP isWclk < r.ts.length → t.ghost.tp ≤ s.ghost.popped ∧
        ((∀ h ∈ r.ts, h = lastStage r.ts) → tailP t = tailP s))

/-- R91, R143, R168: on a running block every clock edge the form has completes with any commands; the edges of the other
form's clocks stop under their own name. -/
def Obligations.ClockEdgesComplete : Prop :=
  ∀ (pc cc : Nat) (late : Bool) (s : State),
    (s.life = .running → pc < 2 ^ (1 + s.dataW) → cc < 2 →
      (s.crossing = .sync → ∃ t, runInput (.clk pc cc) s = .next t) ∧
      ((∃ r, s.crossing = .async r) →
        (∃ t, runInput (.wclk pc late) s = .next t) ∧ ∃ t, runInput (.rclk cc late) s = .next t)) ∧
    (s.crossing = .sync → runInput (.wclk pc late) s = .refused .noSuchClock ∧
      runInput (.rclk cc late) s = .refused .noSuchClock) ∧
    ((∃ r, s.crossing = .async r) → runInput (.clk pc cc) s = .refused .noSuchClock)

/-! ## Settling and liveness -/

/-- R105: `settle` is the two steps `SYNC_TAIL` and `SYNC_HEAD` with the largest `d` each allows; after it both views are
up to date and nothing else has changed. -/
def Obligations.SettleBringsViewsUpToDate : Prop :=
  ∀ s : State, s.life = .inReset ∨ s.life = .running → (∀ r, s.crossing = .async r → r.ts ≠ [] ∧ r.hs ≠ []) →
    andThen (exec (.syncTail (tailLag s)) s) (exec (.syncHead (headLag s))) = .next (settle s) ∧
    Settled (settle s) ∧
    (settle s).head = s.head ∧ (settle s).tail = s.tail ∧ (settle s).storage = s.storage ∧
    (settle s).capacity = s.capacity ∧ (settle s).pOut = s.pOut ∧ (settle s).cOut = s.cOut

/-- R265: from a settled state, while both callers issue only idle commands, no step changes anything but the response
words, and the state stays settled. -/
def Obligations.SettledStateIsQuiet : Prop :=
  ∀ (x : Input) (s t : State), BlockInv s → Settled s → quietInput s.dataW x = true → runInput x s = .next t →
    Settled t ∧ { abstract t with pOut := s.pOut, cOut := s.cOut } = abstract s

/-- R75, R188 (fairness is the spec's decision D19): in every fair execution of the abstract machine, every published
value of `tail` is reached or passed by `tail_p`, and every published value of `head` by `head_c`. -/
def Obligations.PublishedCursorsAreEventuallySeen : Prop :=
  ∀ run : Nat → State, BlockInv (run 0) → Execution run →
    (FairTail run → ∀ n, ∃ m, n ≤ m ∧ (run n).ghost.popped ≤ (run m).ghost.tp) ∧
    (FairHead run → ∀ n, ∃ m, n ≤ m ∧ (run n).ghost.pushed ≤ (run m).ghost.hc)

/-! ## Names of the state -/

/-- R40: the register numbers. -/
def Obligations.RegisterNumbers : Prop :=
  ∀ s : State,
    readRegister 0 s = some s.head ∧ readRegister 1 s = some s.tail ∧ readRegister 2 s = some s.capacity ∧
    readRegister 3 s = some s.indexMask ∧ readRegister 4 s = some (tailP s) ∧ readRegister 5 s = some (headC s) ∧
    (s.crossing = .sync → ∀ i, 6 ≤ i → readRegister i s = none) ∧
    (∀ r, s.crossing = .async r → readRegister 6 s = some r.headGray ∧ readRegister 7 s = some r.tailGray ∧
      (∀ j, j < r.ts.length → readRegister (8 + j) s = r.ts[j]?) ∧
      (∀ j, readRegister (8 + r.ts.length + j) s = r.hs[j]?))

/-- R63, R66: the state image, little-endian (the byte at offset `k` of a value is its bits `8k + 7` to `8k`), with the
two cursors a line apart (for `LINE_BYTES` of at least 16, notes/assumptions/11.md). -/
def Obligations.StateImageLayout : Prop :=
  ∀ (line : Nat) (s : State), 16 ≤ line →
    (∀ k, k < 8 →
      imageByte line k s = some (s.head.extractLsb' (8 * k) 8) ∧
      imageByte line (8 + k) s = some ((tailP s).extractLsb' (8 * k) 8) ∧
      imageByte line (line + k) s = some (s.tail.extractLsb' (8 * k) 8) ∧
      imageByte line (line + 8 + k) s = some ((headC s).extractLsb' (8 * k) 8) ∧
      imageByte line (2 * line + k) s = some (s.capacity.extractLsb' (8 * k) 8) ∧
      imageByte line (2 * line + 8 + k) s = some (s.indexMask.extractLsb' (8 * k) 8)) ∧
    (∀ i k, i < depth s → k < (s.dataW + 7) / 8 →
      imageByte line (3 * line + i * ((s.dataW + 7) / 8) + k) s =
        some (BitVec.ofNat 8 (memRead i s / 2 ^ (8 * k) % 256))) ∧
    (∀ off, 16 ≤ off % line → off < 3 * line → imageByte line off s = some 0) ∧
    (∀ off, 3 * line + depth s * ((s.dataW + 7) / 8) ≤ off → imageByte line off s = none)
end

