-- ==== Sys2Proof/Laws/Arith.lean ====
section
/-! SUPPORT. The arithmetic of cursors (R45): a legal capacity is a power of two, so it divides `2^64` and a masked
cursor is the count modulo the capacity. -/

namespace Sys2Proof.Machine

/-- A number with `n &&& (n - 1) = 0` that is not 0 is a power of two. -/
theorem eq_two_pow_of_and_sub_one {n : Nat} (h0 : n ≠ 0) (h : n &&& (n - 1) = 0) : ∃ a, n = 2 ^ a := by
  refine ⟨n.log2, ?_⟩
  have hle : 2 ^ n.log2 ≤ n := Nat.log2_self_le h0
  have hlt : n < 2 ^ n.log2 * 2 := Nat.lt_log2_self
  by_contra hne
  have h1 : n.testBit n.log2 = true := by
    have : n / 2 ^ n.log2 = 1 := Nat.div_eq_of_lt_le (by omega) (by omega)
    simp [Nat.testBit_eq_decide_div_mod_eq, this]
  have h2 : (n - 1).testBit n.log2 = true := by
    have : (n - 1) / 2 ^ n.log2 = 1 := Nat.div_eq_of_lt_le (by omega) (by omega)
    simp [Nat.testBit_eq_decide_div_mod_eq, this]
  have := congrArg (fun x => x.testBit n.log2) h
  simp [Nat.testBit_and, h1, h2] at this

/-- A legal capacity as a number: a power of two from `2^1` to `2^63`. -/
theorem legalCapacity_toNat {c : Word} (h : legalCapacity c = true) : ∃ a, 1 ≤ a ∧ a ≤ 63 ∧ c.toNat = 2 ^ a := by
  simp only [legalCapacity, Bool.and_eq_true, decide_eq_true_eq] at h
  obtain ⟨h2, h3⟩ := h
  have h2 : 2 ≤ c.toNat := h2
  have hs : (c - 1).toNat = c.toNat - 1 := by
    rw [BitVec.toNat_sub]
    have : c.toNat < 2 ^ 64 := c.isLt
    simp
    omega
  have h3 : c.toNat &&& (c.toNat - 1) = 0 := by
    have := congrArg BitVec.toNat h3
    rwa [BitVec.toNat_and, hs] at this
  obtain ⟨a, ha⟩ := eq_two_pow_of_and_sub_one (by omega) h3
  refine ⟨a, ?_, ?_, ha⟩
  · by_contra h
    have : a = 0 := by omega
    simp [this] at ha
    omega
  · by_contra h
    have h64 : 64 ≤ a := by omega
    have : 2 ^ 64 ≤ 2 ^ a := Nat.pow_le_pow_right (by omega) h64
    have : c.toNat < 2 ^ 64 := c.isLt
    omega

/-- A masked cursor is the count modulo the capacity (R35, R45). -/
theorem slotIndex_ofNat {c : Word} (h : legalCapacity c = true) (k : Nat) :
    slotIndex (BitVec.ofNat 64 k) (c - 1) = k % c.toNat := by
  obtain ⟨a, h1, h63, ha⟩ := legalCapacity_toNat h
  have hpos : 1 ≤ c.toNat := by rw [ha]; exact Nat.one_le_two_pow
  have hs : (c - 1).toNat = 2 ^ a - 1 := by
    rw [BitVec.toNat_sub]
    have : c.toNat < 2 ^ 64 := c.isLt
    simp
    omega
  rw [slotIndex, BitVec.toNat_and, hs, Nat.and_two_pow_sub_one_eq_mod, ha, BitVec.toNat_ofNat]
  exact Nat.mod_mod_of_dvd k (Nat.pow_dvd_pow 2 (by omega : a ≤ 64))

/-- The difference of two registers is the difference of the counts they stand for, when that is small (R45). -/
theorem ofNat_sub_ofNat {m n : Nat} (hnm : n ≤ m) (h : m - n < 2 ^ 64) :
    (BitVec.ofNat 64 m - BitVec.ofNat 64 n).toNat = m - n := by
  rw [BitVec.toNat_sub, BitVec.toNat_ofNat, BitVec.toNat_ofNat]
  omega

/-- Counts at most `2^63` apart are equal when their registers are. -/
theorem ofNat_inj_of_close {m n : Nat} (hnm : n ≤ m) (h : m - n < 2 ^ 64)
    (e : BitVec.ofNat 64 m = BitVec.ofNat 64 n) : m = n := by
  have := ofNat_sub_ofNat hnm h
  rw [e, BitVec.sub_self] at this
  simp at this
  omega

end Sys2Proof.Machine
end

