-- ==== Sys2Proof/Laws/Gray.lean ====
section
/-! SUPPORT. The gray conversions bit by bit, and the one law both directions of the code rest on: applying
`b ^ (b >> k)` twice is `b ^ (b >> 2k)`. -/

namespace Sys2Proof.Machine

/-- Bit `i` of `b ^ (b >> k)`. -/
@[simp] theorem xorShift_getLsbD (k : Nat) (b : Word) (i : Nat) :
    (xorShift k b).getLsbD i = (b.getLsbD i ^^ b.getLsbD (k + i)) := by
  simp [xorShift, BitVec.getLsbD_xor, BitVec.getLsbD_ushiftRight]

@[simp] theorem xorShift_zero (k : Nat) : xorShift k 0#64 = 0#64 := by simp [xorShift]

@[simp] theorem bin2gray_zero : bin2gray 0#64 = 0#64 := xorShift_zero 1

@[simp] theorem gray2bin_zero : gray2bin 0#64 = 0#64 := by simp [gray2bin]

/-- Twice by `k` is once by `2k`. -/
theorem xorShift_xorShift (k : Nat) (b : Word) : xorShift k (xorShift k b) = xorShift (k + k) b := by
  apply BitVec.eq_of_getLsbD_eq
  intro i _
  simp only [xorShift_getLsbD, ← Nat.add_assoc]
  cases b.getLsbD i <;> cases b.getLsbD (k + i) <;> cases b.getLsbD (k + k + i) <;> rfl

/-- The shifts commute. -/
theorem xorShift_comm (j k : Nat) (b : Word) : xorShift j (xorShift k b) = xorShift k (xorShift j b) := by
  apply BitVec.eq_of_getLsbD_eq
  intro i _
  simp only [xorShift_getLsbD, ← Nat.add_assoc, Nat.add_comm k j]
  cases b.getLsbD i <;> cases b.getLsbD (k + i) <;> cases b.getLsbD (j + i) <;> cases b.getLsbD (j + k + i) <;> rfl

/-- A shift by 64 leaves nothing. -/
theorem xorShift_64 (b : Word) : xorShift 64 b = b := by
  apply BitVec.eq_of_getLsbD_eq
  intro i _
  simp [BitVec.getLsbD_of_ge]

end Sys2Proof.Machine
end

