-- ==== Sys2Proof/Laws/Memory.lean ====
section
/-! SUPPORT. The laws of the slot array: a read after a write, and that every operation keeps the canonical form. -/

namespace Sys2Proof.Machine

@[simp] theorem Memory.read_zeroFill (i : Nat) : Memory.read Memory.zeroFill i = 0 := rfl

theorem Memory.zeroFill_wf : Memory.wf Memory.zeroFill := by simp [Memory.wf, Memory.zeroFill]

/-- A slot before every listed one reads as 0. -/
theorem Memory.read_of_lt {m : Memory} {i : Nat} (h : ∀ c ∈ m, i < c.1) : Memory.read m i = 0 := by
  induction m with
  | nil => rfl
  | cons c m ih =>
    obtain ⟨a, w⟩ := c
    have ha : i < a := h (a, w) (by simp)
    rw [Memory.read, if_neg (by omega)]
    exact ih fun c hc => h c (by simp [hc])

theorem Memory.wf_tail {c : Nat × Slot} {m : Memory} (h : Memory.wf (c :: m)) : Memory.wf m :=
  ⟨(List.pairwise_cons.1 h.1).2, fun x hx => h.2 x (by simp [hx])⟩

/-- What a canonical array reads as after a write. -/
theorem Memory.read_write {m : Memory} (h : Memory.wf m) (i : Nat) (v : Slot) (j : Nat) :
    Memory.read (Memory.write m i v) j = if j = i then v else Memory.read m j := by
  induction m with
  | nil =>
    rw [Memory.write]
    by_cases hv : v = 0
    · simp [hv, Memory.read]
    · rw [if_neg hv]
      by_cases hj : j = i
      · simp [Memory.read, hj]
      · simp [Memory.read, hj, Ne.symm hj]
  | cons c m ih =>
    obtain ⟨a, w⟩ := c
    have hlt : ∀ c ∈ m, a < c.1 := (List.pairwise_cons.1 h.1).1
    have ih := ih (Memory.wf_tail h)
    rw [Memory.write]
    split
    · rename_i hia
      have h0 : Memory.read ((a, w) :: m) i = 0 := Memory.read_of_lt (by
        intro c hc
        rcases List.mem_cons.1 hc with rfl | hc
        · exact hia
        · exact lt_trans hia (hlt c hc))
      by_cases hv : v = 0
      · rw [if_pos hv]
        split
        · rename_i hj
          rw [hj, h0, hv]
        · rfl
      · rw [if_neg hv, Memory.read]
        by_cases hj : j = i
        · simp [hj]
        · rw [if_neg (fun e => hj e.symm), if_neg hj]
    · split
      · rename_i _ hia
        subst hia
        have h0 : Memory.read m i = 0 := Memory.read_of_lt hlt
        by_cases hv : v = 0
        · rw [if_pos hv]
          split
          · rename_i hj
            rw [hj, h0, hv]
          · rename_i hj
            rw [Memory.read, if_neg (fun e => hj e.symm)]
        · rw [if_neg hv, Memory.read, Memory.read]
          by_cases hj : j = i
          · simp [hj]
          · rw [if_neg (fun e => hj e.symm), if_neg hj, if_neg (fun e => hj e.symm)]
      · rename_i _ hia
        rw [Memory.read, Memory.read]
        by_cases hj : a = j
        · rw [if_pos hj, if_pos hj, if_neg (by omega)]
        · rw [if_neg hj, if_neg hj, ih]

/-- An index listed after a write was listed before it, or is the written one. -/
theorem Memory.mem_write {m : Memory} {i : Nat} {v : Slot} {c : Nat × Slot} (h : c ∈ Memory.write m i v) :
    c ∈ m ∨ (c = (i, v) ∧ v ≠ 0) := by
  induction m with
  | nil =>
    rw [Memory.write] at h
    split at h
    · simp at h
    · exact .inr ⟨by simpa using h, ‹_›⟩
  | cons x m ih =>
    obtain ⟨a, w⟩ := x
    rw [Memory.write] at h
    split at h
    · split at h
      · exact .inl h
      · rcases List.mem_cons.1 h with rfl | h
        · exact .inr ⟨rfl, ‹_›⟩
        · exact .inl h
    · split at h
      · split at h
        · exact .inl (by simp [h])
        · rcases List.mem_cons.1 h with rfl | h
          · exact .inr ⟨rfl, ‹_›⟩
          · exact .inl (by simp [h])
      · rcases List.mem_cons.1 h with rfl | h
        · exact .inl (by simp)
        · rcases ih h with h | h
          · exact .inl (by simp [h])
          · exact .inr h

/-- A write keeps the canonical form. -/
theorem Memory.write_wf {m : Memory} (h : Memory.wf m) (i : Nat) (v : Slot) : Memory.wf (Memory.write m i v) := by
  refine ⟨?_, fun c hc => ?_⟩
  · induction m with
    | nil => rw [Memory.write]; split <;> simp
    | cons x m ih =>
      obtain ⟨a, w⟩ := x
      have ih := ih (Memory.wf_tail h)
      obtain ⟨hlt, hm⟩ := List.pairwise_cons.1 h.1
      rw [Memory.write]
      split
      · rename_i hia
        split
        · exact h.1
        · refine List.pairwise_cons.2 ⟨fun c hc => ?_, h.1⟩
          rcases List.mem_cons.1 hc with rfl | hc
          · exact hia
          · exact lt_trans hia (hlt c hc)
      · split
        · rename_i _ hia
          subst hia
          split
          · exact hm
          · exact List.pairwise_cons.2 ⟨hlt, hm⟩
        · refine List.pairwise_cons.2 ⟨fun c hc => ?_, ih⟩
          rcases Memory.mem_write hc with hc | ⟨rfl, -⟩
          · exact hlt c hc
          · show a < i
            omega
  · rcases Memory.mem_write hc with hc | ⟨rfl, hv⟩
    · exact h.2 c hc
    · exact hv

/-- A write inside the slot array lists no slot outside it (R60). -/
theorem Memory.write_inRange {m : Memory} {n i : Nat} {v : Slot} (h : ∀ c ∈ m, c.1 < n) (hi : i < n) :
    ∀ c ∈ Memory.write m i v, c.1 < n := by
  intro c hc
  rcases Memory.mem_write hc with hc | ⟨rfl, -⟩
  · exact h c hc
  · exact hi

/-- A write of a value that fits lists no value that does not (R22). -/
theorem Memory.write_fits {m : Memory} {b i : Nat} {v : Slot} (h : ∀ c ∈ m, c.2 < b) (hv : v < b) :
    ∀ c ∈ Memory.write m i v, c.2 < b := by
  intro c hc
  rcases Memory.mem_write hc with hc | ⟨rfl, -⟩
  · exact h c hc
  · exact hv

/-- What a slot holds fits when what is listed does. -/
theorem Memory.read_lt {m : Memory} {b : Nat} (h : ∀ c ∈ m, c.2 < b) (hb : 0 < b) (i : Nat) : Memory.read m i < b := by
  induction m with
  | nil => exact hb
  | cons c m ih =>
    obtain ⟨a, w⟩ := c
    rw [Memory.read]
    split
    · exact h (a, w) (by simp)
    · exact ih fun c hc => h c (by simp [hc])

/-- Canonical arrays that read alike are equal data. -/
theorem Memory.ext_of_read {m n : Memory} (hm : Memory.wf m) (hn : Memory.wf n)
    (h : ∀ i, Memory.read m i = Memory.read n i) : m = n := by
  induction m generalizing n with
  | nil =>
    cases n with
    | nil => rfl
    | cons y n =>
      have := h y.1
      simp only [Memory.read, if_true] at this
      exact absurd this.symm (hn.2 y (by simp))
  | cons x m ih =>
    cases n with
    | nil =>
      have := h x.1
      simp only [Memory.read, if_true] at this
      exact absurd this (hm.2 x (by simp))
    | cons y n =>
      obtain ⟨a, v⟩ := x
      obtain ⟨b, w⟩ := y
      have hma : ∀ c ∈ m, a < c.1 := (List.pairwise_cons.1 hm.1).1
      have hnb : ∀ c ∈ n, b < c.1 := (List.pairwise_cons.1 hn.1).1
      have hv : v ≠ 0 := hm.2 (a, v) (by simp)
      have hw : w ≠ 0 := hn.2 (b, w) (by simp)
      have hab : a = b := by
        rcases lt_trichotomy a b with hlt | heq | hgt
        · have := h a
          rw [Memory.read, if_pos rfl, Memory.read_of_lt] at this
          · exact absurd this hv
          · intro c hc
            rcases List.mem_cons.1 hc with rfl | hc
            · exact hlt
            · exact lt_trans hlt (hnb c hc)
        · exact heq
        · have := h b
          rw [Memory.read_of_lt, Memory.read, if_pos rfl] at this
          · exact absurd this.symm hw
          · intro c hc
            rcases List.mem_cons.1 hc with rfl | hc
            · exact hgt
            · exact lt_trans hgt (hma c hc)
      subst hab
      have hvw : v = w := by simpa [Memory.read] using h a
      subst hvw
      refine congrArg _ (ih (Memory.wf_tail hm) (Memory.wf_tail hn) fun i => ?_)
      have := h i
      rw [Memory.read, Memory.read] at this
      by_cases hi : a = i
      · subst hi
        rw [Memory.read_of_lt hma, Memory.read_of_lt hnb]
      · rwa [if_neg hi, if_neg hi] at this

/-- Reading the slot array after `MemWrite` (R13). -/
theorem memRead_memWrite {s : State} (h : Memory.wf s.storage) (i : Nat) (v : Slot) (j : Nat) :
    memRead j (memWrite i v s) = if j = i then v else memRead j s := Memory.read_write h i v j

end Sys2Proof.Machine
end

