-- ==== Sys2Proof/Laws/State.lean ====
section
/-! SUPPORT. One lemma per field per named update of the state, true by unfolding, so that no later proof unfolds a
record update; the views after the updates that do not move them. -/

namespace Sys2Proof.Machine

section memWrite
variable (i : Nat) (v : Slot) (s : State)
@[simp] theorem memWrite_capacity : (memWrite i v s).capacity = s.capacity := rfl
@[simp] theorem memWrite_indexMask : (memWrite i v s).indexMask = s.indexMask := rfl
@[simp] theorem memWrite_dataW : (memWrite i v s).dataW = s.dataW := rfl
@[simp] theorem memWrite_head : (memWrite i v s).head = s.head := rfl
@[simp] theorem memWrite_tail : (memWrite i v s).tail = s.tail := rfl
@[simp] theorem memWrite_storage : (memWrite i v s).storage = Memory.write s.storage i v := rfl
@[simp] theorem memWrite_crossing : (memWrite i v s).crossing = s.crossing := rfl
@[simp] theorem memWrite_life : (memWrite i v s).life = s.life := rfl
@[simp] theorem memWrite_pOut : (memWrite i v s).pOut = s.pOut := rfl
@[simp] theorem memWrite_cOut : (memWrite i v s).cOut = s.cOut := rfl
@[simp] theorem memWrite_ghost : (memWrite i v s).ghost = s.ghost := rfl
@[simp] theorem memWrite_inputs : (memWrite i v s).inputs = s.inputs := rfl
end memWrite

section publish
variable (s : State)
@[simp] theorem publishHead_capacity : (publishHead s).capacity = s.capacity := rfl
@[simp] theorem publishHead_indexMask : (publishHead s).indexMask = s.indexMask := rfl
@[simp] theorem publishHead_dataW : (publishHead s).dataW = s.dataW := rfl
@[simp] theorem publishHead_head : (publishHead s).head = s.head + 1 := rfl
@[simp] theorem publishHead_tail : (publishHead s).tail = s.tail := rfl
@[simp] theorem publishHead_storage : (publishHead s).storage = s.storage := rfl
@[simp] theorem publishHead_crossing : (publishHead s).crossing = s.crossing.publishHead (s.head + 1) := rfl
@[simp] theorem publishHead_life : (publishHead s).life = s.life := rfl
@[simp] theorem publishHead_pOut : (publishHead s).pOut = s.pOut := rfl
@[simp] theorem publishHead_cOut : (publishHead s).cOut = s.cOut := rfl
@[simp] theorem publishHead_ghost : (publishHead s).ghost = s.ghost := rfl
@[simp] theorem publishHead_inputs : (publishHead s).inputs = s.inputs := rfl
@[simp] theorem publishTail_capacity : (publishTail s).capacity = s.capacity := rfl
@[simp] theorem publishTail_indexMask : (publishTail s).indexMask = s.indexMask := rfl
@[simp] theorem publishTail_dataW : (publishTail s).dataW = s.dataW := rfl
@[simp] theorem publishTail_head : (publishTail s).head = s.head := rfl
@[simp] theorem publishTail_tail : (publishTail s).tail = s.tail + 1 := rfl
@[simp] theorem publishTail_storage : (publishTail s).storage = s.storage := rfl
@[simp] theorem publishTail_crossing : (publishTail s).crossing = s.crossing.publishTail (s.tail + 1) := rfl
@[simp] theorem publishTail_life : (publishTail s).life = s.life := rfl
@[simp] theorem publishTail_pOut : (publishTail s).pOut = s.pOut := rfl
@[simp] theorem publishTail_cOut : (publishTail s).cOut = s.cOut := rfl
@[simp] theorem publishTail_ghost : (publishTail s).ghost = s.ghost := rfl
@[simp] theorem publishTail_inputs : (publishTail s).inputs = s.inputs := rfl
end publish

section enqueue
variable (v : Slot) (s : State)
@[simp] theorem enqueue_capacity : (enqueue v s).capacity = s.capacity := rfl
@[simp] theorem enqueue_indexMask : (enqueue v s).indexMask = s.indexMask := rfl
@[simp] theorem enqueue_dataW : (enqueue v s).dataW = s.dataW := rfl
@[simp] theorem enqueue_head : (enqueue v s).head = s.head + 1 := rfl
@[simp] theorem enqueue_tail : (enqueue v s).tail = s.tail := rfl
@[simp] theorem enqueue_storage : (enqueue v s).storage = Memory.write s.storage (writeIndex s) v := rfl
@[simp] theorem enqueue_crossing : (enqueue v s).crossing = s.crossing.publishHead (s.head + 1) := rfl
@[simp] theorem enqueue_life : (enqueue v s).life = s.life := rfl
@[simp] theorem enqueue_pOut : (enqueue v s).pOut = s.pOut := rfl
@[simp] theorem enqueue_cOut : (enqueue v s).cOut = s.cOut := rfl
@[simp] theorem enqueue_ghost : (enqueue v s).ghost = s.ghost.notePush v s.crossing := rfl
@[simp] theorem enqueue_inputs : (enqueue v s).inputs = s.inputs := rfl
end enqueue

section dequeue
variable (s : State)
@[simp] theorem dequeue_capacity : (dequeue s).capacity = s.capacity := rfl
@[simp] theorem dequeue_indexMask : (dequeue s).indexMask = s.indexMask := rfl
@[simp] theorem dequeue_dataW : (dequeue s).dataW = s.dataW := rfl
@[simp] theorem dequeue_head : (dequeue s).head = s.head := rfl
@[simp] theorem dequeue_tail : (dequeue s).tail = s.tail + 1 := rfl
@[simp] theorem dequeue_storage : (dequeue s).storage = s.storage := rfl
@[simp] theorem dequeue_crossing : (dequeue s).crossing = s.crossing.publishTail (s.tail + 1) := rfl
@[simp] theorem dequeue_life : (dequeue s).life = s.life := rfl
@[simp] theorem dequeue_pOut : (dequeue s).pOut = s.pOut := rfl
@[simp] theorem dequeue_cOut : (dequeue s).cOut = s.cOut := rfl
@[simp] theorem dequeue_ghost :
    (dequeue s).ghost = s.ghost.notePop (memRead (readIndex s) s) s.crossing := rfl
@[simp] theorem dequeue_inputs : (dequeue s).inputs = s.inputs := rfl
end dequeue

section advance
variable (d : Nat) (s : State)
@[simp] theorem advanceTailP_capacity : (advanceTailP d s).capacity = s.capacity := rfl
@[simp] theorem advanceTailP_indexMask : (advanceTailP d s).indexMask = s.indexMask := rfl
@[simp] theorem advanceTailP_dataW : (advanceTailP d s).dataW = s.dataW := rfl
@[simp] theorem advanceTailP_head : (advanceTailP d s).head = s.head := rfl
@[simp] theorem advanceTailP_tail : (advanceTailP d s).tail = s.tail := rfl
@[simp] theorem advanceTailP_storage : (advanceTailP d s).storage = s.storage := rfl
@[simp] theorem advanceTailP_crossing :
    (advanceTailP d s).crossing = s.crossing.moveTailP s.tail (tailP s + BitVec.ofNat 64 d) := rfl
@[simp] theorem advanceTailP_life : (advanceTailP d s).life = s.life := rfl
@[simp] theorem advanceTailP_pOut : (advanceTailP d s).pOut = s.pOut := rfl
@[simp] theorem advanceTailP_cOut : (advanceTailP d s).cOut = s.cOut := rfl
@[simp] theorem advanceTailP_ghost : (advanceTailP d s).ghost = { s.ghost with tp := s.ghost.tp + d } := rfl
@[simp] theorem advanceTailP_inputs : (advanceTailP d s).inputs = s.inputs := rfl
@[simp] theorem advanceHeadC_capacity : (advanceHeadC d s).capacity = s.capacity := rfl
@[simp] theorem advanceHeadC_indexMask : (advanceHeadC d s).indexMask = s.indexMask := rfl
@[simp] theorem advanceHeadC_dataW : (advanceHeadC d s).dataW = s.dataW := rfl
@[simp] theorem advanceHeadC_head : (advanceHeadC d s).head = s.head := rfl
@[simp] theorem advanceHeadC_tail : (advanceHeadC d s).tail = s.tail := rfl
@[simp] theorem advanceHeadC_storage : (advanceHeadC d s).storage = s.storage := rfl
@[simp] theorem advanceHeadC_crossing :
    (advanceHeadC d s).crossing = s.crossing.moveHeadC s.head (headC s + BitVec.ofNat 64 d) := rfl
@[simp] theorem advanceHeadC_life : (advanceHeadC d s).life = s.life := rfl
@[simp] theorem advanceHeadC_pOut : (advanceHeadC d s).pOut = s.pOut := rfl
@[simp] theorem advanceHeadC_cOut : (advanceHeadC d s).cOut = s.cOut := rfl
@[simp] theorem advanceHeadC_ghost : (advanceHeadC d s).ghost = { s.ghost with hc := s.ghost.hc + d } := rfl
@[simp] theorem advanceHeadC_inputs : (advanceHeadC d s).inputs = s.inputs := rfl
end advance

section shift
variable (late : Bool) (r : AsyncRegs) (s : State)
@[simp] theorem shiftTs_capacity : (shiftTs late r s).capacity = s.capacity := rfl
@[simp] theorem shiftTs_indexMask : (shiftTs late r s).indexMask = s.indexMask := rfl
@[simp] theorem shiftTs_dataW : (shiftTs late r s).dataW = s.dataW := rfl
@[simp] theorem shiftTs_head : (shiftTs late r s).head = s.head := rfl
@[simp] theorem shiftTs_tail : (shiftTs late r s).tail = s.tail := rfl
@[simp] theorem shiftTs_storage : (shiftTs late r s).storage = s.storage := rfl
@[simp] theorem shiftTs_crossing : (shiftTs late r s).crossing = .async (r.shiftTs late) := rfl
@[simp] theorem shiftTs_life : (shiftTs late r s).life = s.life := rfl
@[simp] theorem shiftTs_pOut : (shiftTs late r s).pOut = s.pOut := rfl
@[simp] theorem shiftTs_cOut : (shiftTs late r s).cOut = s.cOut := rfl
@[simp] theorem shiftTs_ghost : (shiftTs late r s).ghost =
    { s.ghost with tp := s.ghost.tp +
        (gray2bin (lastStage (r.shiftTs late).ts) - gray2bin (lastStage r.ts)).toNat } := rfl
@[simp] theorem shiftTs_inputs : (shiftTs late r s).inputs = s.inputs := rfl
@[simp] theorem shiftHs_capacity : (shiftHs late r s).capacity = s.capacity := rfl
@[simp] theorem shiftHs_indexMask : (shiftHs late r s).indexMask = s.indexMask := rfl
@[simp] theorem shiftHs_dataW : (shiftHs late r s).dataW = s.dataW := rfl
@[simp] theorem shiftHs_head : (shiftHs late r s).head = s.head := rfl
@[simp] theorem shiftHs_tail : (shiftHs late r s).tail = s.tail := rfl
@[simp] theorem shiftHs_storage : (shiftHs late r s).storage = s.storage := rfl
@[simp] theorem shiftHs_crossing : (shiftHs late r s).crossing = .async (r.shiftHs late) := rfl
@[simp] theorem shiftHs_life : (shiftHs late r s).life = s.life := rfl
@[simp] theorem shiftHs_pOut : (shiftHs late r s).pOut = s.pOut := rfl
@[simp] theorem shiftHs_cOut : (shiftHs late r s).cOut = s.cOut := rfl
@[simp] theorem shiftHs_ghost : (shiftHs late r s).ghost =
    { s.ghost with hc := s.ghost.hc +
        (gray2bin (lastStage (r.shiftHs late).hs) - gray2bin (lastStage r.hs)).toNat } := rfl
@[simp] theorem shiftHs_inputs : (shiftHs late r s).inputs = s.inputs := rfl
end shift

section cleared
variable (b : Life) (s : State)
@[simp] theorem cleared_capacity : (cleared b s).capacity = s.capacity := rfl
@[simp] theorem cleared_indexMask : (cleared b s).indexMask = s.indexMask := rfl
@[simp] theorem cleared_dataW : (cleared b s).dataW = s.dataW := rfl
@[simp] theorem cleared_head : (cleared b s).head = 0 := rfl
@[simp] theorem cleared_tail : (cleared b s).tail = 0 := rfl
@[simp] theorem cleared_storage : (cleared b s).storage = [] := rfl
@[simp] theorem cleared_crossing : (cleared b s).crossing = s.crossing.cleared := rfl
@[simp] theorem cleared_life : (cleared b s).life = b := rfl
@[simp] theorem cleared_pOut : (cleared b s).pOut = PResponse.quiet := rfl
@[simp] theorem cleared_cOut : (cleared b s).cOut = CResponse.quiet := rfl
@[simp] theorem cleared_ghost : (cleared b s).ghost = Ghost.zero := rfl
@[simp] theorem cleared_inputs : (cleared b s).inputs = s.inputs := rfl
end cleared

section fieldSetters
variable (p : PResponse) (c : CResponse) (l : List Input) (r : AsyncRegs) (s : State)
@[simp] theorem respondP_capacity : (respondP p s).capacity = s.capacity := rfl
@[simp] theorem respondP_indexMask : (respondP p s).indexMask = s.indexMask := rfl
@[simp] theorem respondP_dataW : (respondP p s).dataW = s.dataW := rfl
@[simp] theorem respondP_head : (respondP p s).head = s.head := rfl
@[simp] theorem respondP_tail : (respondP p s).tail = s.tail := rfl
@[simp] theorem respondP_storage : (respondP p s).storage = s.storage := rfl
@[simp] theorem respondP_crossing : (respondP p s).crossing = s.crossing := rfl
@[simp] theorem respondP_life : (respondP p s).life = s.life := rfl
@[simp] theorem respondP_pOut : (respondP p s).pOut = p := rfl
@[simp] theorem respondP_cOut : (respondP p s).cOut = s.cOut := rfl
@[simp] theorem respondP_ghost : (respondP p s).ghost = s.ghost := rfl
@[simp] theorem respondP_inputs : (respondP p s).inputs = s.inputs := rfl
@[simp] theorem tailP_respondP : tailP (respondP p s) = tailP s := rfl
@[simp] theorem headC_respondP : headC (respondP p s) = headC s := rfl
@[simp] theorem full_respondP : full (respondP p s) = full s := rfl
@[simp] theorem empty_respondP : empty (respondP p s) = empty s := rfl
@[simp] theorem memRead_respondP (i : Nat) : memRead i (respondP p s) = memRead i s := rfl
@[simp] theorem writeIndex_respondP : writeIndex (respondP p s) = writeIndex s := rfl
@[simp] theorem readIndex_respondP : readIndex (respondP p s) = readIndex s := rfl
@[simp] theorem respondC_capacity : (respondC c s).capacity = s.capacity := rfl
@[simp] theorem respondC_indexMask : (respondC c s).indexMask = s.indexMask := rfl
@[simp] theorem respondC_dataW : (respondC c s).dataW = s.dataW := rfl
@[simp] theorem respondC_head : (respondC c s).head = s.head := rfl
@[simp] theorem respondC_tail : (respondC c s).tail = s.tail := rfl
@[simp] theorem respondC_storage : (respondC c s).storage = s.storage := rfl
@[simp] theorem respondC_crossing : (respondC c s).crossing = s.crossing := rfl
@[simp] theorem respondC_life : (respondC c s).life = s.life := rfl
@[simp] theorem respondC_pOut : (respondC c s).pOut = s.pOut := rfl
@[simp] theorem respondC_cOut : (respondC c s).cOut = c := rfl
@[simp] theorem respondC_ghost : (respondC c s).ghost = s.ghost := rfl
@[simp] theorem respondC_inputs : (respondC c s).inputs = s.inputs := rfl
@[simp] theorem tailP_respondC : tailP (respondC c s) = tailP s := rfl
@[simp] theorem headC_respondC : headC (respondC c s) = headC s := rfl
@[simp] theorem full_respondC : full (respondC c s) = full s := rfl
@[simp] theorem empty_respondC : empty (respondC c s) = empty s := rfl
@[simp] theorem memRead_respondC (i : Nat) : memRead i (respondC c s) = memRead i s := rfl
@[simp] theorem writeIndex_respondC : writeIndex (respondC c s) = writeIndex s := rfl
@[simp] theorem readIndex_respondC : readIndex (respondC c s) = readIndex s := rfl
@[simp] theorem withInputs_capacity : (withInputs l s).capacity = s.capacity := rfl
@[simp] theorem withInputs_indexMask : (withInputs l s).indexMask = s.indexMask := rfl
@[simp] theorem withInputs_dataW : (withInputs l s).dataW = s.dataW := rfl
@[simp] theorem withInputs_head : (withInputs l s).head = s.head := rfl
@[simp] theorem withInputs_tail : (withInputs l s).tail = s.tail := rfl
@[simp] theorem withInputs_storage : (withInputs l s).storage = s.storage := rfl
@[simp] theorem withInputs_crossing : (withInputs l s).crossing = s.crossing := rfl
@[simp] theorem withInputs_life : (withInputs l s).life = s.life := rfl
@[simp] theorem withInputs_pOut : (withInputs l s).pOut = s.pOut := rfl
@[simp] theorem withInputs_cOut : (withInputs l s).cOut = s.cOut := rfl
@[simp] theorem withInputs_ghost : (withInputs l s).ghost = s.ghost := rfl
@[simp] theorem withInputs_inputs : (withInputs l s).inputs = l := rfl
@[simp] theorem tailP_withInputs : tailP (withInputs l s) = tailP s := rfl
@[simp] theorem headC_withInputs : headC (withInputs l s) = headC s := rfl
@[simp] theorem full_withInputs : full (withInputs l s) = full s := rfl
@[simp] theorem empty_withInputs : empty (withInputs l s) = empty s := rfl
@[simp] theorem memRead_withInputs (i : Nat) : memRead i (withInputs l s) = memRead i s := rfl
@[simp] theorem writeIndex_withInputs : writeIndex (withInputs l s) = writeIndex s := rfl
@[simp] theorem readIndex_withInputs : readIndex (withInputs l s) = readIndex s := rfl
@[simp] theorem withLife_capacity (b : Life) : (withLife b s).capacity = s.capacity := rfl
@[simp] theorem withLife_indexMask (b : Life) : (withLife b s).indexMask = s.indexMask := rfl
@[simp] theorem withLife_dataW (b : Life) : (withLife b s).dataW = s.dataW := rfl
@[simp] theorem withLife_head (b : Life) : (withLife b s).head = s.head := rfl
@[simp] theorem withLife_tail (b : Life) : (withLife b s).tail = s.tail := rfl
@[simp] theorem withLife_storage (b : Life) : (withLife b s).storage = s.storage := rfl
@[simp] theorem withLife_crossing (b : Life) : (withLife b s).crossing = s.crossing := rfl
@[simp] theorem withLife_life (b : Life) : (withLife b s).life = b := rfl
@[simp] theorem withLife_pOut (b : Life) : (withLife b s).pOut = s.pOut := rfl
@[simp] theorem withLife_cOut (b : Life) : (withLife b s).cOut = s.cOut := rfl
@[simp] theorem withLife_ghost (b : Life) : (withLife b s).ghost = s.ghost := rfl
@[simp] theorem withLife_inputs (b : Life) : (withLife b s).inputs = s.inputs := rfl
@[simp] theorem tailP_withLife (b : Life) : tailP (withLife b s) = tailP s := rfl
@[simp] theorem headC_withLife (b : Life) : headC (withLife b s) = headC s := rfl
@[simp] theorem withAsync_capacity : (withAsync r s).capacity = s.capacity := rfl
@[simp] theorem withAsync_indexMask : (withAsync r s).indexMask = s.indexMask := rfl
@[simp] theorem withAsync_dataW : (withAsync r s).dataW = s.dataW := rfl
@[simp] theorem withAsync_head : (withAsync r s).head = s.head := rfl
@[simp] theorem withAsync_tail : (withAsync r s).tail = s.tail := rfl
@[simp] theorem withAsync_storage : (withAsync r s).storage = s.storage := rfl
@[simp] theorem withAsync_crossing : (withAsync r s).crossing = .async r := rfl
@[simp] theorem withAsync_life : (withAsync r s).life = s.life := rfl
@[simp] theorem withAsync_pOut : (withAsync r s).pOut = s.pOut := rfl
@[simp] theorem withAsync_cOut : (withAsync r s).cOut = s.cOut := rfl
@[simp] theorem withAsync_ghost : (withAsync r s).ghost = s.ghost := rfl
@[simp] theorem withAsync_inputs : (withAsync r s).inputs = s.inputs := rfl
@[simp] theorem tailP_withAsync : tailP (withAsync r s) = gray2bin (lastStage r.ts) := rfl
@[simp] theorem headC_withAsync : headC (withAsync r s) = gray2bin (lastStage r.hs) := rfl
@[simp] theorem noteWclk_hs : r.noteWclk.hs = r.hs := rfl
@[simp] theorem noteWclk_ts : r.noteWclk.ts = r.ts := rfl
@[simp] theorem noteRclk_hs : r.noteRclk.hs = r.hs := rfl
@[simp] theorem noteRclk_ts : r.noteRclk.ts = r.ts := rfl
end fieldSetters

/-! The views after the updates that do not move them. -/

section views
variable (s : State)
@[simp] theorem tailP_memWrite (i : Nat) (v : Slot) : tailP (memWrite i v s) = tailP s := rfl
@[simp] theorem headC_memWrite (i : Nat) (v : Slot) : headC (memWrite i v s) = headC s := rfl

/-- A push does not move the producer's view of `tail` (R135). -/
@[simp] theorem tailP_enqueue (v : Slot) : tailP (enqueue v s) = tailP s := by
  unfold tailP
  simp only [enqueue_crossing, enqueue_tail]
  cases s.crossing <;> rfl

/-- A pop does not move the consumer's view of `head` (R160). -/
@[simp] theorem headC_dequeue : headC (dequeue s) = headC s := by
  unfold headC
  simp only [dequeue_crossing, dequeue_head]
  cases s.crossing <;> rfl

/-- `SYNC_TAIL` does not move `head_c` (R187). -/
@[simp] theorem headC_advanceTailP (d : Nat) : headC (advanceTailP d s) = headC s := by
  unfold headC
  simp only [advanceTailP_crossing, advanceTailP_head]
  cases s.crossing <;> rfl

/-- `SYNC_HEAD` does not move `tail_p` (R187). -/
@[simp] theorem tailP_advanceHeadC (d : Nat) : tailP (advanceHeadC d s) = tailP s := by
  unfold tailP
  simp only [advanceHeadC_crossing, advanceHeadC_tail]
  cases s.crossing <;> rfl
end views

end Sys2Proof.Machine
end

