-- ==== Sys2Proof/Laws/Ops.lean ====
section
/-! SUPPORT. For each shared operation, each meaning and each kind of input, everything it can do, said once: later
proofs cite these and do not unfold. -/

namespace Sys2Proof.Machine

open Host

/-- A sequence answers a next state exactly when both parts do. -/
theorem andThen_eq_next {o : Outcome State Fault Refusal} {f : State → Outcome State Fault Refusal} {t : State} :
    andThen o f = .next t ↔ ∃ s, o = .next s ∧ f s = .next t := by
  cases o <;> simp [andThen]

/-- A sequence faults exactly when its first part does, or the second after it. -/
theorem andThen_eq_fault {o : Outcome State Fault Refusal} {f : State → Outcome State Fault Refusal} {r : Fault} :
    andThen o f = .fault r ↔ o = .fault r ∨ ∃ s, o = .next s ∧ f s = .fault r := by
  cases o <;> simp [andThen]

@[simp] theorem andThen_next (s : State) (f : State → Outcome State Fault Refusal) :
    andThen (.next s) f = f s := rfl

/-- What needs an instance that has been reset answers only there, and there it is what it is (R124, R243). -/
theorem ifReset_eq_next {o : Outcome State Fault Refusal} {s t : State} :
    ifReset o s = .next t ↔ (s.life = .inReset ∨ s.life = .running) ∧ o = .next t := by
  unfold ifReset
  cases s.life <;> simp

/-- A port's command is ignored in reset and runs when the block runs (R244). -/
theorem atPort_eq_next {q : State} {o : Outcome State Fault Refusal} {s t : State} :
    atPort q o s = .next t ↔ (s.life = .inReset ∧ t = q) ∨ (s.life = .running ∧ o = .next t) := by
  unfold atPort ifReset
  cases s.life <;> simp [eq_comm]

theorem atPort_running {q : State} {o : Outcome State Fault Refusal} {s : State} (h : s.life = .running) :
    atPort q o s = o := by simp [atPort, ifReset, h]

theorem atPort_inReset {q : State} {o : Outcome State Fault Refusal} {s : State} (h : s.life = .inReset) :
    atPort q o s = .next q := by simp [atPort, ifReset, h]

theorem ifReset_running {o : Outcome State Fault Refusal} {s : State} (h : s.life = .running) : ifReset o s = o := by
  simp [ifReset, h]

/-- A port's command raises nothing that the command alone does not raise (R213). -/
theorem atPort_ne_fault {q : State} {o : Outcome State Fault Refusal} {s : State} {r : Fault}
    (h : o ≠ .fault r) : atPort q o s ≠ .fault r := by
  unfold atPort ifReset
  cases s.life <;> simp [h]

theorem ifReset_ne_fault {o : Outcome State Fault Refusal} {s : State} {r : Fault}
    (h : o ≠ .fault r) : ifReset o s ≠ .fault r := by
  unfold ifReset
  cases s.life <;> simp [h]

/-- `CONSTRUCT` builds exactly on a legal capacity, and only where no instance exists (R120, R121, R125). -/
theorem execConstruct_eq (c : Word) (s : State) :
    execConstruct c s =
      if s.life = .elaborating then
        if legalCapacity c then .next (cleared .constructed { s with capacity := c, indexMask := c - 1 })
        else .fault (.configError c)
      else .refused .alreadyConstructed := by
  unfold execConstruct legalCapacity raiseConfigError
  by_cases hl : s.life = .elaborating
  · rw [if_pos hl, if_pos hl]
    by_cases h2 : c < 2
    · rw [if_pos h2,
        if_neg (by simp only [Bool.and_eq_true, decide_eq_true_eq]; exact fun h => BitVec.not_le.2 h2 h.1)]
    · rw [if_neg h2]
      by_cases h3 : c &&& (c - 1) = 0
      · rw [if_neg (not_not.2 h3),
          if_pos (by simp only [Bool.and_eq_true, decide_eq_true_eq]; exact ⟨BitVec.not_lt.1 h2, h3⟩)]
      · rw [if_pos h3, if_neg (by simp only [Bool.and_eq_true, decide_eq_true_eq]; exact fun h => h3 h.2)]
  · rw [if_neg hl, if_neg hl]

/-- Everything a `RESET` that answers can do (R240). -/
theorem execReset_eq_next {s t : State} :
    execReset s = .next t ↔ s.life ≠ .elaborating ∧ t = cleared .running s := by
  unfold execReset
  split <;> simp_all [eq_comm]

/-- Everything a `PUSH` that answers can do (R135, R244). -/
theorem execPush_eq_next {v : Slot} {s t : State} :
    execPush v s = .next t ↔ v < 2 ^ s.dataW ∧
      ((s.life = .inReset ∧ t = respondP PResponse.quiet s) ∨
       (s.life = .running ∧
        ((full s = true ∧ t = respondP { pushOk := false, full := true } s) ∨
         (full s = false ∧ t = respondP { pushOk := true, full := false } (enqueue v s))))) := by
  unfold execPush
  split
  · rename_i hv
    rw [atPort_eq_next]
    unfold producerResponse pushOk
    cases hf : full s <;> simp [hv, eq_comm]
  · rename_i hv
    simp [hv]

/-- Everything a `POP` that answers can do (R160, R244). -/
theorem execPop_eq_next {s t : State} :
    execPop s = .next t ↔
      (s.life = .inReset ∧ t = respondC CResponse.quiet s) ∨
      (s.life = .running ∧
       ((empty s = true ∧ t = respondC { popOk := false, empty := true, rdData := 0 } s) ∨
        (empty s = false ∧
         t = respondC { popOk := true, empty := false, rdData := memRead (readIndex s) s } (dequeue s)))) := by
  unfold execPop
  rw [atPort_eq_next]
  unfold consumerResponse popOk
  cases he : empty s <;> simp [eq_comm]

/-- All an idle producer cycle that answers can do (R147, R244). -/
theorem execPIdle_eq_next {s t : State} :
    execPIdle s = .next t ↔
      (s.life = .inReset ∧ t = respondP PResponse.quiet s) ∨
      (s.life = .running ∧ t = respondP { pushOk := false, full := full s } s) := by
  unfold execPIdle
  rw [atPort_eq_next]
  simp [producerResponse, pushOk, eq_comm]

/-- All an idle consumer cycle that answers can do (R172, R244). -/
theorem execCIdle_eq_next {s t : State} :
    execCIdle s = .next t ↔
      (s.life = .inReset ∧ t = respondC CResponse.quiet s) ∨
      (s.life = .running ∧ t = respondC { popOk := false, empty := empty s, rdData := 0 } s) := by
  unfold execCIdle
  rw [atPort_eq_next]
  simp [consumerResponse, popOk, eq_comm]

/-- Everything a `SYNC_TAIL` that answers can do (R185). -/
theorem execSyncTail_eq_next {d : Nat} {s t : State} :
    execSyncTail d s = .next t ↔
      (s.life = .inReset ∨ s.life = .running) ∧ d ≤ tailLag s ∧ t = advanceTailP d s := by
  unfold execSyncTail
  rw [ifReset_eq_next]
  split <;> simp_all [eq_comm]

/-- Everything a `SYNC_HEAD` that answers can do (R186). -/
theorem execSyncHead_eq_next {d : Nat} {s t : State} :
    execSyncHead d s = .next t ↔
      (s.life = .inReset ∨ s.life = .running) ∧ d ≤ headLag s ∧ t = advanceHeadC d s := by
  unfold execSyncHead
  rw [ifReset_eq_next]
  split <;> simp_all [eq_comm]

/-- Everything the reset input going or staying low can do (R244, R246). -/
theorem lowerReset_eq_next {p c : Instr} {s t : State} :
    lowerReset p c s = .next t ↔ s.life ≠ .elaborating ∧ (s.life = .inReset ∨ (p = .pIdle ∧ c = .cIdle)) ∧
      t = cleared .inReset s := by
  unfold lowerReset
  cases s.life <;> simp [eq_comm]
  all_goals by_cases hp : p = .pIdle <;> by_cases hc : c = .cIdle <;> simp [hp, hc]

/-- Everything the reset input going high can do (R245). -/
theorem raiseReset_eq_next {s t : State} :
    raiseReset s = .next t ↔ (s.life = .inReset ∨ s.life = .running) ∧ t = withLife .running s := by
  unfold raiseReset
  rw [ifReset_eq_next]
  simp [eq_comm]

/-- A producer command word is a `PUSH` or a `P_IDLE` (R99, R102). -/
theorem decodePC_cases (dw w : Nat) : (∃ v, v < 2 ^ dw ∧ decodePC dw w = .push v) ∨ decodePC dw w = .pIdle := by
  unfold decodePC
  split
  · exact .inl ⟨_, Nat.mod_lt _ (by positivity), rfl⟩
  · exact .inr rfl

/-- A consumer command word is a `POP` or a `C_IDLE` (R99, R102). -/
theorem decodeCC_cases (w : Nat) : decodeCC w = .pop ∨ decodeCC w = .cIdle := by
  unfold decodeCC
  split
  · exact .inl rfl
  · exact .inr rfl

/-- What a port's command word that answers can do: it fits its format, and its operation answers (R99). -/
theorem runCommand_pc_eq_next {w : Nat} {s t : State} :
    runCommand ⟨.pc, w⟩ s = .next t ↔ w < 2 ^ Format.width s.dataW .pc ∧ exec (decodePC s.dataW w) s = .next t := by
  unfold runCommand decode
  split <;> split at * <;> simp_all

theorem runCommand_cc_eq_next {w : Nat} {s t : State} :
    runCommand ⟨.cc, w⟩ s = .next t ↔ w < 2 ^ Format.width s.dataW .cc ∧ exec (decodeCC w) s = .next t := by
  unfold runCommand decode
  split <;> split at * <;> simp_all

/-- A producer command leaves the consumer's side alone (R41). -/
theorem exec_decodePC_frame {dw w : Nat} {s t : State} (h : exec (decodePC dw w) s = .next t) :
    t.capacity = s.capacity ∧ t.indexMask = s.indexMask ∧ t.dataW = s.dataW ∧ t.tail = s.tail ∧ t.life = s.life ∧
      t.cOut = s.cOut ∧ t.inputs = s.inputs := by
  rcases decodePC_cases dw w with ⟨v, -, hv⟩ | hv <;> rw [hv] at h
  · obtain ⟨-, ⟨-, rfl⟩ | ⟨-, ⟨-, rfl⟩ | ⟨-, rfl⟩⟩⟩ := execPush_eq_next.1 h <;> simp
  · obtain ⟨-, rfl⟩ | ⟨-, rfl⟩ := execPIdle_eq_next.1 h <;> simp

/-- A consumer command leaves the producer's side and the slots alone (R41). -/
theorem exec_decodeCC_frame {w : Nat} {s t : State} (h : exec (decodeCC w) s = .next t) :
    t.capacity = s.capacity ∧ t.indexMask = s.indexMask ∧ t.dataW = s.dataW ∧ t.head = s.head ∧
      t.storage = s.storage ∧ t.life = s.life ∧ t.pOut = s.pOut ∧ t.inputs = s.inputs := by
  rcases decodeCC_cases w with hv | hv <;> rw [hv] at h
  · obtain ⟨-, rfl⟩ | ⟨-, ⟨-, rfl⟩ | ⟨-, rfl⟩⟩ := execPop_eq_next.1 h <;> simp
  · obtain ⟨-, rfl⟩ | ⟨-, rfl⟩ := execCIdle_eq_next.1 h <;> simp

/-- Everything a cycle of `clk` that answers can do (R258). -/
theorem clkCycle_eq_next {pc cc : Nat} {s t : State} :
    clkCycle pc cc s = .next t ↔ s.crossing = .sync ∧ pc < 2 ^ Format.width s.dataW .pc ∧
      cc < 2 ^ Format.width s.dataW .cc ∧ ∃ p c, exec (decodePC s.dataW pc) s = .next p ∧
      exec (decodeCC cc) s = .next c ∧ t = mergeSides s p c := by
  unfold clkCycle
  cases hx : s.crossing with
  | sync =>
    simp only [andThen_eq_next, runCommand_pc_eq_next, runCommand_cc_eq_next, Outcome.next.injEq, true_and]
    constructor
    · rintro ⟨p, ⟨h1, hp⟩, c, ⟨h2, hc⟩, rfl⟩
      exact ⟨h1, h2, p, c, hp, hc, rfl⟩
    · rintro ⟨h1, h2, p, c, hp, hc, rfl⟩
      exact ⟨p, ⟨h1, hp⟩, c, ⟨h2, hc⟩, rfl⟩
  | async r => simp

/-- Everything an edge of `wclk` that answers can do (R145, R195). -/
theorem wclkEdge_eq_next {pc : Nat} {late : Bool} {s t : State} :
    wclkEdge pc late s = .next t ↔ pc < 2 ^ Format.width s.dataW .pc ∧ ∃ r p r', s.crossing = .async r ∧
      exec (decodePC s.dataW pc) (withAsync r.noteWclk s) = .next p ∧
      p.crossing = .async r' ∧ t = shiftTs late r' p := by
  unfold wclkEdge
  cases hx : s.crossing with
  | sync => simp
  | async r =>
    simp only [andThen_eq_next, runCommand_pc_eq_next, withAsync_dataW, Crossing.async.injEq]
    constructor
    · rintro ⟨p, ⟨h1, hp⟩, h⟩
      cases hpx : p.crossing with
      | sync => simp [hpx] at h
      | async r' => exact ⟨h1, r, p, r', rfl, hp, hpx, by simpa [hpx, eq_comm] using h⟩
    · rintro ⟨h1, _, p, r', rfl, hp, hpx, rfl⟩
      exact ⟨p, ⟨h1, hp⟩, by simp [hpx]⟩

/-- Everything an edge of `rclk` that answers can do (R170, R194). -/
theorem rclkEdge_eq_next {cc : Nat} {late : Bool} {s t : State} :
    rclkEdge cc late s = .next t ↔ cc < 2 ^ Format.width s.dataW .cc ∧ ∃ r c r', s.crossing = .async r ∧
      exec (decodeCC cc) (withAsync r.noteRclk s) = .next c ∧
      c.crossing = .async r' ∧ t = shiftHs late r' c := by
  unfold rclkEdge
  cases hx : s.crossing with
  | sync => simp
  | async r =>
    simp only [andThen_eq_next, runCommand_cc_eq_next, withAsync_dataW, Crossing.async.injEq]
    constructor
    · rintro ⟨p, ⟨h1, hp⟩, h⟩
      cases hpx : p.crossing with
      | sync => simp [hpx] at h
      | async r' => exact ⟨h1, r, p, r', rfl, hp, hpx, by simpa [hpx, eq_comm] using h⟩
    · rintro ⟨h1, _, p, r', rfl, hp, hpx, rfl⟩
      exact ⟨p, ⟨h1, hp⟩, by simp [hpx]⟩

/-- Everything a low reset input that answers can do: the words fit, and it goes low only when they are idle (R246). -/
theorem resetCycle_eq_next {pc cc : Nat} {s t : State} :
    resetCycle pc cc s = .next t ↔ pc < 2 ^ Format.width s.dataW .pc ∧ cc < 2 ^ Format.width s.dataW .cc ∧
      s.life ≠ .elaborating ∧
      (s.life = .inReset ∨ (decodePC s.dataW pc = .pIdle ∧ decodeCC cc = .cIdle)) ∧ t = cleared .inReset s := by
  unfold resetCycle
  by_cases h1 : pc < 2 ^ Format.width s.dataW .pc
  · rw [show decode s.dataW ⟨.pc, pc⟩ = .ok (decodePC s.dataW pc) from if_pos h1]
    by_cases h2 : cc < 2 ^ Format.width s.dataW .cc
    · rw [show decode s.dataW ⟨.cc, cc⟩ = .ok (decodeCC cc) from if_pos h2]
      simp only [h1, h2, true_and]
      exact lowerReset_eq_next
    · rw [show decode s.dataW ⟨.cc, cc⟩ = .error .tooWide from if_neg h2]
      simp [h2]
  · rw [show decode s.dataW ⟨.pc, pc⟩ = .error .tooWide from if_neg h1]
    simp [h1]

/-- A step with no input left holds the state; otherwise it runs the next input. -/
theorem step_nil {s : State} (h : s.inputs = []) : step s = .next s := by simp [step, h]

theorem step_cons {s : State} {x : Input} {rest : List Input} (h : s.inputs = x :: rest) :
    step s = runInput x (withInputs rest s) := by simp [step, h]

/-- The last stage of a shifted chain. -/
theorem shiftChain_length (v : Word) (chain : List Word) : (shiftChain v chain).length = chain.length := by
  simp [shiftChain]

theorem bringForward_length (src v : Word) (chain : List Word) :
    (bringForward src v chain).length = chain.length := by
  simp [bringForward]

end Sys2Proof.Machine
end

