-- ==== Sys2Proof/Laws/PerInstr.lean ====
section
/-! SUPPORT. Statements about every operation as syntax, one lemma per constructor (LAWS.json). -/

/-- For every `DATA_W`, the command word of a well-formed operation, if it has one, fits its format (R92, R93, R95, R97,
R103). -/
def Sys2Proof.Laws.EncodeWidth.Statement (i : Sys2Proof.Instr) : Prop :=
  ∀ dw w, i.wf dw = true → Sys2Proof.encode dw i = some w → w.bits < 2 ^ w.format.width dw

theorem Sys2Proof.Laws.EncodeWidth.construct (c : Sys2Proof.Word) :
    Sys2Proof.Laws.EncodeWidth.Statement (.construct c) := by
  rintro dw w - ⟨⟩
  exact c.isLt

theorem Sys2Proof.Laws.EncodeWidth.reset : Sys2Proof.Laws.EncodeWidth.Statement .reset := by
  rintro dw w - ⟨⟩
  exact Nat.two_pow_pos _

theorem Sys2Proof.Laws.EncodeWidth.push (v : Sys2Proof.Slot) :
    Sys2Proof.Laws.EncodeWidth.Statement (.push v) := by
  rintro dw w h ⟨⟩
  have h : v < 2 ^ dw := by simpa [Sys2Proof.Instr.wf] using h
  calc 2 ^ dw + v < 2 ^ dw + 2 ^ dw := Nat.add_lt_add_left h _
    _ = 2 ^ (1 + dw) := by rw [Nat.add_comm 1 dw, Nat.pow_succ, Nat.mul_two]

theorem Sys2Proof.Laws.EncodeWidth.pIdle : Sys2Proof.Laws.EncodeWidth.Statement .pIdle := by
  rintro dw w - ⟨⟩
  exact Nat.two_pow_pos _

theorem Sys2Proof.Laws.EncodeWidth.pop : Sys2Proof.Laws.EncodeWidth.Statement .pop := by
  rintro dw w - ⟨⟩
  exact (by decide : 1 < 2 ^ 1)

theorem Sys2Proof.Laws.EncodeWidth.cIdle : Sys2Proof.Laws.EncodeWidth.Statement .cIdle := by
  rintro dw w - ⟨⟩
  exact Nat.two_pow_pos _

theorem Sys2Proof.Laws.EncodeWidth.syncTail (d : Nat) : Sys2Proof.Laws.EncodeWidth.Statement (.syncTail d) := by
  rintro dw w - ⟨⟩

theorem Sys2Proof.Laws.EncodeWidth.syncHead (d : Nat) : Sys2Proof.Laws.EncodeWidth.Statement (.syncHead d) := by
  rintro dw w - ⟨⟩
end

