-- ==== Sys2Proof/Tests/Slice0.lean ====
section
/-! SUPPORT. The model's own tests: what WellFormed refuses, words written out from 30_encoding.md, single steps from
the hand-derived vectors of 95_test_vectors.md, and a witness for the hypotheses of every statement. -/

namespace Sys2Proof.Tests

open Sys2Proof Sys2Proof.Machine Sys2Proof.Safety

/-! ## Helpers -/

/-- The next state, if the outcome is one. -/
def next? : Host.Outcome State Fault Refusal → Option State
  | .next s => some s
  | .fault _ => none
  | .refused _ => none

/-- The error, if the outcome is one. -/
def fault? : Host.Outcome State Fault Refusal → Option Fault
  | .next _ => none
  | .fault f => some f
  | .refused _ => none

/-- What 95_test_vectors.md writes of a state: `head tail tail_p head_c [storage]`, of up to four slots. -/
def line (n : Nat) (s : State) : List Word × List Slot :=
  ([s.head, s.tail, tailP s, headC s], (List.range n).map fun i => memRead i s)

/-- The line after a step. -/
def lineAfter (n : Nat) (o : Host.Outcome State Fault Refusal) : Option (List Word × List Slot) :=
  (next? o).map (line n)

/-- The stages of the chains as counts, and what the gray registers held before their last edges. -/
structure Chains where
  headPrev : Nat
  tailPrev : Nat
  ts       : List Nat
  hs       : List Nat

/-- A state from its counts; `chains` is none in the form `SYNC`. -/
def build (cap : Word) (mem : Memory) (g : Ghost) (chains : Option Chains) : State :=
  { State.reset with
    capacity := cap, indexMask := cap - 1
    head := BitVec.ofNat 64 g.pushed, tail := BitVec.ofNat 64 g.popped
    storage := mem, ghost := g
    crossing := match chains with
      | none => .sync
      | some c => .async
        { headGray := grayOfCount g.pushed, headGrayPrev := grayOfCount c.headPrev
          tailGray := grayOfCount g.popped, tailGrayPrev := grayOfCount c.tailPrev
          ts := c.ts.map grayOfCount, hs := c.hs.map grayOfCount } }

/-- A chain of counts as `ChainOk` wants it. -/
def chainCheck (counts : List Nat) (published seen : Nat) : Bool :=
  decide (counts.Pairwise (fun newer older => older ≤ newer)) && decide (∀ c ∈ counts, c ≤ published) &&
    decide (counts.getLast? = some seen)

theorem chainCheck_sound {counts : List Nat} {published seen : Nat} (h : chainCheck counts published seen = true) :
    ChainOk (counts.map grayOfCount) published seen := by
  simp only [chainCheck, Bool.and_eq_true, decide_eq_true_eq] at h
  exact ⟨counts, rfl, h.1.1, h.1.2, h.2⟩

/-- A previous count as `PrevOk` wants it. -/
theorem prevOk_of {p published : Nat} (h : p = published ∨ published = p + 1) :
    PrevOk (grayOfCount p) published :=
  h.imp (fun e => by rw [e]) (fun e => ⟨p, e, rfl⟩)

/-- The decidable content of `BlockInv` for a built state. -/
def buildCheck (cap : Word) (mem : Memory) (g : Ghost) (chains : Option Chains) : Bool :=
  let s := build cap mem g chains
  legalCapacity cap && decide (Memory.wf mem) && decide (∀ c ∈ mem, c.1 < cap.toNat) &&
  decide (∀ c ∈ mem, c.2 < 2 ^ 64) &&
  decide (headC s = BitVec.ofNat 64 g.hc) && decide (tailP s = BitVec.ofNat 64 g.tp) &&
  decide (g.popped ≤ g.hc) && decide (g.hc ≤ g.pushed) && decide (g.tp ≤ g.popped) &&
  decide (g.pushed ≤ g.tp + cap.toNat) && decide (g.ins.length = g.pushed) &&
  decide (g.outs = g.ins.take g.popped) &&
  decide (∀ k, k < g.pushed → g.popped ≤ k → g.ins[k]? = some (memRead (k % cap.toNat) s)) &&
  match chains with
  | none => decide (g.hc = g.pushed) && decide (g.tp = g.popped)
  | some c => decide (c.headPrev = g.pushed ∨ g.pushed = c.headPrev + 1) &&
    decide (c.tailPrev = g.popped ∨ g.popped = c.tailPrev + 1) &&
    decide (2 ≤ c.ts.length) && decide (c.ts.length = c.hs.length) &&
    chainCheck c.ts g.popped g.tp && chainCheck c.hs g.pushed g.hc

theorem buildCheck_sound {cap : Word} {mem : Memory} {g : Ghost} {chains : Option Chains}
    (h : buildCheck cap mem g chains = true) : BlockInv (build cap mem g chains) := by
  simp only [buildCheck, Bool.and_eq_true, decide_eq_true_eq] at h
  obtain ⟨⟨⟨⟨⟨⟨⟨⟨⟨⟨⟨⟨⟨h1, h2⟩, h3⟩, hfit⟩, h4⟩, h5⟩, h6⟩, h7⟩, h8⟩, h9⟩, h10⟩, h11⟩, h12⟩, h13⟩ := h
  refine ⟨show Life.running ≠ .elaborating by decide, show legalDataW 64 = true by decide, h1, rfl, h2, h3, hfit, rfl,
    rfl, h4, h5, h6, h7, h8, h9, h10, h11, fun k ha hb => h12 k hb ha, ?_,
    fun h => absurd h (show Life.running ≠ .inReset by decide)⟩
  cases chains with
  | none =>
    simp only [Bool.and_eq_true, decide_eq_true_eq] at h13
    exact h13
  | some c =>
    simp only [Bool.and_eq_true, decide_eq_true_eq] at h13
    obtain ⟨⟨⟨⟨⟨p1, p2⟩, l1⟩, l2⟩, c1⟩, c2⟩ := h13
    exact ⟨rfl, rfl, prevOk_of p1, prevOk_of p2, by simpa [build] using l1, by simpa [build] using l2,
      chainCheck_sound c1, chainCheck_sound c2⟩

/-- An outcome that is a next state. -/
theorem goes {o : Host.Outcome State Fault Refusal} (h : (next? o).isSome = true) : ∃ t, o = .next t := by
  cases o with
  | next s => exact ⟨s, rfl⟩
  | fault r => cases h
  | refused r => cases h

/-! ## The states of the witnesses and tests -/

/-- Section 2.8: `DEPTH == 4`, `9 7 7 9 [8,5,6,7]`: partly filled and settled, no flag set. -/
def settled9 : State :=
  build 4 [(0, 8), (1, 5), (2, 6), (3, 7)]
    { pushed := 9, popped := 7, hc := 9, tp := 7, ins := [0, 1, 2, 3, 4, 5, 6, 7, 8], outs := [0, 1, 2, 3, 4, 5, 6] }
    (some { headPrev := 9, tailPrev := 7, ts := [7, 7], hs := [9, 9] })

theorem settled9_inv : BlockInv settled9 := buildCheck_sound (by decide)

/-- Program P3, after `push 4 -> false`: `DEPTH == 2`, `3 1 1 1 [3,2]`: truly full, `empty` stale. The last push has
just happened: no edge of `rclk` yet. -/
def stale2 : State :=
  build 2 [(0, 3), (1, 2)]
    { pushed := 3, popped := 1, hc := 1, tp := 1, ins := [1, 2, 3], outs := [1] }
    (some { headPrev := 2, tailPrev := 1, ts := [1, 1], hs := [2, 1] })

theorem stale2_inv : BlockInv stale2 := buildCheck_sound (by decide)

/-- Section 2.7, fourth row: `DEPTH == 4`, `4 2 0 4`: `full` stale. The last pop has just happened. -/
def stale4 : State :=
  build 4 [(0, 10), (1, 11), (2, 12), (3, 13)]
    { pushed := 4, popped := 2, hc := 4, tp := 0, ins := [10, 11, 12, 13], outs := [10, 11] }
    (some { headPrev := 4, tailPrev := 1, ts := [0, 0], hs := [4, 4] })

theorem stale4_inv : BlockInv stale4 := buildCheck_sound (by decide)

/-- Both views behind: `DEPTH == 4`, `3 1 0 2 [10,11,12,0]`, newer values already in the first stages. -/
def behind3 : State :=
  build 4 [(0, 10), (1, 11), (2, 12)]
    { pushed := 3, popped := 1, hc := 2, tp := 0, ins := [10, 11, 12], outs := [10] }
    (some { headPrev := 3, tailPrev := 1, ts := [1, 0], hs := [3, 2] })

theorem behind3_inv : BlockInv behind3 := buildCheck_sound (by decide)

/-- Program P4 before cycle `@0`: `CLOCKING = SYNC`, `DEPTH == 2`, after reset. -/
def sync0 : State :=
  build 2 [] { pushed := 0, popped := 0, hc := 0, tp := 0, ins := [], outs := [] } none

theorem sync0_inv : BlockInv sync0 := buildCheck_sound (by decide)

/-- Program P4 before cycle `@1`: `1 0 [7,0]`. -/
def sync1 : State :=
  build 2 [(0, 7)] { pushed := 1, popped := 0, hc := 1, tp := 0, ins := [7], outs := [] } none

theorem sync1_inv : BlockInv sync1 := buildCheck_sound (by decide)

/-- Program P4 before cycle `@3`: `3 1 [9,8]`, full. -/
def sync3 : State :=
  build 2 [(0, 9), (1, 8)] { pushed := 3, popped := 1, hc := 3, tp := 1, ins := [7, 8, 9], outs := [7] } none

theorem sync3_inv : BlockInv sync3 := buildCheck_sound (by decide)

/-- The `ASYNC` state that looks like `sync1` to the abstract machine. -/
def async1 : State :=
  build 2 [(0, 7)] { pushed := 1, popped := 0, hc := 1, tp := 0, ins := [7], outs := [] }
    (some { headPrev := 0, tailPrev := 0, ts := [0, 0], hs := [1, 1] })

theorem async1_inv : BlockInv async1 := buildCheck_sound (by decide)

/-- The cursors of a vector of section 2.2 to 2.4 and nothing else of its past; no invariant is claimed. -/
def cursors (cap : Word) (mem : Memory) (head tail tailP headC : Nat) : State :=
  build cap mem { pushed := head, popped := tail, hc := headC, tp := tailP, ins := [], outs := [] }
    (some { headPrev := head, tailPrev := tail, ts := [tailP, tailP], hs := [headC, headC] })

/-- Vector 8 of section 2.2: `head == 2^64 - 1`. -/
def wrapState : State := cursors 2 [] 0xFFFFFFFFFFFFFFFF 0xFFFFFFFFFFFFFFFE 0xFFFFFFFFFFFFFFFE 0xFFFFFFFFFFFFFFFF

/-- The state `CONSTRUCT` meets: no instance exists. -/
def unbuilt : State := withLife .elaborating State.reset

/-- The state after `E: new 4` and before the first `RESET`. -/
def made4 : State := cleared .constructed unbuilt

/-- `settled9` while the reset input is low. -/
def held9 : State := cleared .inReset settled9

/-- While reset is low the invariant holds of any block whose parameters are legal. -/
theorem held9_inv : BlockInv held9 := by
  constructor
  case slotsHoldQueue => exact fun k _ h => absurd h (Nat.not_lt_zero k)
  case crossingOk =>
    have allZero : ChainOk ([0, 0].map grayOfCount) 0 0 := chainCheck_sound (by decide)
    exact ⟨rfl, rfl, .inl rfl, .inl rfl, le_rfl, rfl, allZero, allZero⟩
  case heldInReset => exact fun _ => ⟨rfl, rfl, rfl, rfl⟩
  all_goals decide

/-- An instance of the form `SYNC` with `DATA_W = 8`, else as `sync1`. -/
def narrow1 : State := { sync1 with dataW := 8 }

/-! ## What WellFormed refuses -/

theorem smoke_capacity_zero : legalCapacity 0 = false := by decide
theorem smoke_capacity_one : legalCapacity 1 = false := by decide
theorem smoke_capacity_six : legalCapacity 6 = false := by decide
theorem smoke_dataW_zero : legalDataW 0 = false := by decide
theorem smoke_stages_one : legalStages .async 1 = false := by decide
theorem smoke_line_four : legalLineBytes 4 = false := by decide
theorem smoke_line_twelve : legalLineBytes 12 = false := by decide
theorem smoke_params_depth : Config.Params.wf { Config.params with depth := 3 } = false := by decide
theorem smoke_params_dataW : Config.Params.wf { Config.params with dataW := 0 } = false := by decide
theorem smoke_params_stages : Config.Params.wf { Config.params with stages := 1 } = false := by decide
theorem smoke_params_line : Config.Params.wf { Config.params with lineBytes := 12 } = false := by decide
theorem smoke_push_wide : Instr.wf 64 (.push (2 ^ 64)) = false := by decide
theorem smoke_syncTail_wide : Instr.wf 64 (.syncTail (2 ^ 64)) = false := by decide
theorem smoke_syncHead_wide : Instr.wf 64 (.syncHead (2 ^ 64)) = false := by decide
theorem smoke_word_wide : CommandWord.wf 64 ⟨.pc, 2 ^ 65⟩ = false := by decide
theorem smoke_word_no_format : CommandWord.wf 64 ⟨.none, 0⟩ = false := by decide

/-! ## Decoding: words written out from R93, R95, R97 and the example words of 95_test_vectors.md

The two internal steps have no word (R100). -/

/-- `E: new 1024`: `K = 0x0000_0000_0000_0400`. -/
theorem test_decode_construct : decode 64 ⟨.k, 0x0000000000000400⟩ = .ok (.construct 1024) := by decide
/-- The reset input low. -/
theorem test_decode_reset : decode 64 ⟨.rs, 0⟩ = .ok .reset := by decide
/-- `push 42` is `PC = 0x1_0000_0000_0000_002A`. -/
theorem test_decode_push : decode 64 ⟨.pc, 0x1000000000000002A⟩ = .ok (.push 42) := by decide
/-- `P: idle` is `PC = 0x0_<anything>`. -/
theorem test_decode_pIdle : decode 64 ⟨.pc, 0x0DEADBEEF00000001⟩ = .ok .pIdle := by decide
/-- R103: with `DATA_W = 8`, `push 42` is the 9-bit word `0x12A`. -/
theorem test_decode_push_narrow : decode 8 ⟨.pc, 0x12A⟩ = .ok (.push 42) := by decide
/-- `C: pop` is `CC = 0b1`. -/
theorem test_decode_pop : decode 64 ⟨.cc, 1⟩ = .ok .pop := by decide
/-- `C: idle` is `CC = 0b0`. -/
theorem test_decode_cIdle : decode 64 ⟨.cc, 0⟩ = .ok .cIdle := by decide
/-- R100: "a decoder never produces them". -/
theorem test_decode_sync_none : decode 64 ⟨.none, 0⟩ = .error .noEncoding := by decide
/-- `pop -> (42, true)` is `CR = 0x2_0000_0000_0000_002A`. -/
theorem test_word_pop42 : CResponse.word 64 { popOk := true, empty := false, rdData := 42 } = 0x2000000000000002A#66 := by
  decide
/-- A failed pop is `CR = 0x1_0000_0000_0000_0000`; a successful push is `PR = 0b10`, a failed one `0b01`. -/
theorem test_word_others :
    CResponse.word 64 { popOk := false, empty := true, rdData := 0 } = 0x10000000000000000#66 ∧
    PResponse.word { pushOk := true, full := false } = 0b10#2 ∧
    PResponse.word { pushOk := false, full := true } = 0b01#2 := by decide

/-! ## Single steps -/

/-- Section 2.1: `3` gives `ConfigError(3)`. -/
theorem test_construct_error : fault? (exec (.construct 3) unbuilt) = some (.configError 3) := by decide

/-- Section 2.1: `0x8000_0000_0000_0000` succeeds with `index_mask == 0x7FFF_FFFF_FFFF_FFFF`. -/
theorem test_construct_largest :
    (next? (exec (.construct 0x8000000000000000) unbuilt)).map (·.indexMask) = some 0x7FFFFFFFFFFFFFFF := by decide

/-- Section 2.8, first row. -/
theorem test_reset_queued : lineAfter 4 (exec .reset settled9) = some ([0, 0, 0, 0], [0, 0, 0, 0]) := by decide

/-- Section 2.8, third row: requests during reset are ignored. -/
theorem test_reset_requests :
    (next? (runInput (.resetLow 0x10000000000000001 1) held9)).map (fun s => (s.pOut.word, s.cOut.word 64)) =
      some (0b00#2, 0x10000000000000000#66) := by decide

/-- R246: reset does not go low under a request. -/
theorem test_reset_under_traffic :
    [runInput (.resetLow 0x10000000000000001 0) settled9, runInput (.resetLow 0 1) settled9,
      runInput (.resetLow 0 0) settled9].map (fun o => (next? o).isSome) = [false, false, true] := by decide

/-- R22, R96: an instance with `DATA_W = 8` keeps the eight bits pushed and shows them in a ten-bit word. -/
theorem test_narrow :
    (next? (andThen (runInput (.clk 0x1FF 0) narrow1) (runInput (.clk 0 1)))).map (fun s => s.cOut.word 8) =
      some 0x207#10 ∧ (next? (runInput (.clk 0x1FF 0) narrow1)).map (memRead 1) = some 0xFF := by decide

/-- Section 2.2, vector 2, with `head_gray == bin2gray(6) == 5`. -/
theorem test_push_vector2 :
    (next? (exec (.push 0xAB) (cursors 4 [] 5 2 2 5))).map
      (fun s => (line 4 s, s.pOut.word, readRegister 6 s, full s)) =
      some (([6, 2, 2, 5], [0, 0xAB, 0, 0]), 0b10#2, some 5, true) := by decide

/-- Section 2.2, vector 8: across the wrap, with `head_gray == 0`. -/
theorem test_push_vector8 :
    (next? (exec (.push 9) wrapState)).map
      (fun s => (s.head, memRead 1 s, s.pOut.word, readRegister 6 s, full s)) =
      some (0, 9, 0b10#2, some 0, true) := by decide

/-- Section 2.2, vector 16, on the state of vector 3. -/
theorem test_pIdle_vector16 :
    (next? (exec .pIdle (cursors 4 [] 6 2 2 6))).map (fun s => (line 4 s, s.pOut.word)) =
      some (([6, 2, 2, 6], [0, 0, 0, 0]), 0b01#2) := by decide

/-- Section 2.3, vector 1, with `tail_gray == 5`. -/
theorem test_pop_vector1 :
    (next? (exec .pop (cursors 4 [(1, 0xAB)] 6 5 5 6))).map
      (fun s => (line 4 s, s.cOut.word 64, readRegister 7 s, empty s)) =
      some (([6, 6, 5, 6], [0, 0xAB, 0, 0]), 0x200000000000000AB#66, some 5, true) := by decide

/-- Section 2.3, vector 6: across the wrap. -/
theorem test_pop_vector6 :
    (next? (exec .pop (cursors 2 [(1, 0x22)] 0x10000000000000000 0xFFFFFFFFFFFFFFFF 0xFFFFFFFFFFFFFFFF
      0x10000000000000000))).map (fun s => (s.tail, s.cOut.rdData, readRegister 7 s, empty s)) =
      some (0, 0x22, some 0, true) := by decide

/-- Section 2.3, vector 11. -/
theorem test_cIdle_vector11 :
    (next? (exec .cIdle (cursors 4 [(1, 0xAB)] 6 5 5 6))).map (fun s => (s.tail, s.cOut.word 64)) =
      some (5, 0x00000000000000000#66) := by decide

/-- Section 2.4, vector 1: `full` goes `1` to `1, 0, 0, 0` for `d == 0, 1, 2, 3`; `d == 4` is no step. -/
theorem test_syncTail_vector1 :
    (List.range 5).map (fun d => (next? (exec (.syncTail d) (cursors 4 [] 8 7 4 8))).map fun s => (tailP s, full s)) =
      [some (4, true), some (5, false), some (6, false), some (7, false), none] := by decide

/-- Section 2.4, vector 6. -/
theorem test_syncHead_vector6 :
    (List.range 4).map (fun d => (next? (exec (.syncHead d)
      (cursors 4 [] 0x10000000000000000 0xFFFFFFFFFFFFFFFE 0xFFFFFFFFFFFFFFFE 0xFFFFFFFFFFFFFFFE))).map headC) =
      [some 0xFFFFFFFFFFFFFFFE, some 0xFFFFFFFFFFFFFFFF, some 0, none] := by decide

/-- Section 2.5, some rows of the table and of the further values. -/
theorem test_gray_table :
    [0x2, 0x3, 0x6, 0xF, 0xFF, 0x7FFFFFFFFFFFFFFF, 0xFFFFFFFFFFFFFFFF].map bin2gray =
      [0x3, 0x2, 0x5, 0x8, 0x80, 0x4000000000000000, 0x8000000000000000] ∧
    [0x5, 0x7, 0xF, 0x10, 0xFFFFFFFFFFFFFFFF, 0x4000000000000000].map gray2bin =
      [0x6, 0x5, 0xA, 0x1F, 0xAAAAAAAAAAAAAAAA, 0x7FFFFFFFFFFFFFFF] := by decide

/-- The state of section 2.6 after edge `e`: one push, which changed `head_gray` at that edge. -/
def afterE : State := { cursors 4 [(0, 42)] 1 0 0 0 with
  crossing := .async { headGray := 1, headGrayPrev := 0, tailGray := 0, tailGrayPrev := 0, ts := [0, 0], hs := [0, 0] } }

/-- Section 2.6, row `r1` of case A (the new value is sampled) and of case B (the old one): `hs[0] hs[1] head_c`. -/
theorem test_chain_r1 :
    [false, true].map (fun late => (next? (runInput (.rclk 0 late) afterE)).map
      fun s => (readRegister 10 s, readRegister 11 s, headC s)) =
      [some (some 1, some 0, 0), some (some 0, some 0, 0)] := by decide

/-- R262: the second edge after the change samples the new value, late or not: `hs[0]`. -/
theorem test_chain_late_once :
    (next? (feed [.rclk 0 true, .rclk 0 true] afterE)).map (readRegister 10) = some (some 1) := by decide

/-- Program P4, cycle `@1`: a partial buffer, both succeed. -/
theorem test_clk_partial :
    (next? (runInput (.clk 0x10000000000000008 1) sync1)).map
      (fun s => (line 2 s, s.pOut.word, s.cOut.word 64)) =
      some (([2, 1, 1, 2], [7, 8]), 0b10#2, 0x20000000000000007#66) := by decide

/-- Program P4, cycle `@3`: a full buffer, the push fails although the pop succeeds. -/
theorem test_clk_full :
    (next? (runInput (.clk 0x1000000000000000A 1) sync3)).map
      (fun s => (line 2 s, s.pOut.word, s.cOut.word 64)) =
      some (([3, 2, 2, 3], [9, 8]), 0b01#2, 0x20000000000000008#66) := by decide

/-- Section 2.10: bytes of the image of `DEPTH = 2`, `2 0 0 0 [10,11]`, 208 bytes long. -/
theorem test_image :
    [0x00, 0x08, 0x40, 0x80, 0x88, 0xC0, 0xC8, 0xCF, 0xD0].map
      (fun off => imageByte 64 off (cursors 2 [(0, 10), (1, 11)] 2 0 0 0)) =
      [some 2, some 0, some 0, some 2, some 1, some 10, some 11, some 0, none] := by decide

/-- Section 2.10: the bytes of a slot from its lowest offset. -/
theorem test_image_slot :
    (List.range 8).map (leByte 0x0102030405060708) = [8, 7, 6, 5, 4, 3, 2, 1] := by decide

/-! ## Witnesses: for every statement with hypotheses, a state and operands that meet them -/

theorem witness_EncodedInstructionDecodesBack :
    Instr.wf 64 (.push 0xFFFFFFFFFFFFFFFF) = true ∧
    encode 64 (.push 0xFFFFFFFFFFFFFFFF) = some ⟨.pc, 0x1FFFFFFFFFFFFFFFF⟩ ∧
    Instr.wf 1 (.push 1) = true ∧ encode 1 (.push 1) = some ⟨.pc, 0b11⟩ ∧
    Instr.wf 64 (.syncTail (2 ^ 64 - 1)) = true ∧ encode 64 (.syncTail (2 ^ 64 - 1)) = none := by decide

theorem witness_EveryFittingWordIsACommand :
    (∀ w ∈ [(⟨.k, 2 ^ 64 - 1⟩ : CommandWord), ⟨.rs, 0⟩, ⟨.pc, 0⟩, ⟨.pc, 2 ^ 65 - 1⟩, ⟨.cc, 0⟩, ⟨.cc, 1⟩],
      w.wf 64 = true ∧ w ≠ ⟨.rs, 1⟩) ∧ CommandWord.wf 1 ⟨.pc, 3⟩ = true := by decide

theorem witness_NonCommandsAreRefused :
    2 ^ Format.width 64 .cc ≤ 2 ∧ 2 ^ Format.width 64 .none ≤ 1 ∧ 2 ^ narrow1.dataW ≤ 256 := by decide

theorem witness_StepRunsDecodedCommand :
    (∃ s rest w i, State.inputs s = .command w :: rest ∧ decode s.dataW w = .ok i) ∧
    (∃ s rest, State.inputs s = .st 2 :: rest) ∧ (∃ s rest, State.inputs s = .sh 2 :: rest) ∧
    (State.reset.dataW = 64 ∧ decodeTableWord 65 0x1000000000000002A = some (.push 42) ∧
      decodeTableWord 64 4 = some (.construct 4)) ∧ State.reset.inputs = [] :=
  ⟨⟨withInputs [.command ⟨.cc, 1⟩] State.reset, [], _, .pop, rfl, by decide⟩,
    ⟨withInputs [.st 2] stale4, [], rfl⟩, ⟨withInputs [.sh 2] stale2, [], rfl⟩, by decide, rfl⟩

theorem witness_CapacityLegalIffPowerOfTwo :
    unbuilt.life = .elaborating ∧
    legalCapacity 0 = false ∧ legalCapacity 1 = false ∧ legalCapacity 3 = false ∧
    legalCapacity 0x8000000000000001 = false := by decide

theorem witness_ConstructDocumentCases :
    unbuilt.life = .elaborating ∧ ¬ ∃ n, (6 : Word) = BitVec.ofNat 64 (2 ^ n) := by
  refine ⟨rfl, ?_⟩
  rintro ⟨n, h⟩
  have hn := congrArg BitVec.toNat h
  rw [BitVec.toNat_ofNat] at hn
  rcases Nat.lt_or_ge n 64 with hlt | hge
  · interval_cases n <;> simp at hn
  · obtain ⟨k, rfl⟩ := Nat.exists_eq_add_of_le hge
    rw [Nat.pow_add, Nat.mul_mod_right] at hn
    simp at hn

theorem witness_ConstructBuildsZeroedInstance :
    unbuilt.life = .elaborating ∧ legalCapacity 2 = true ∧ legalCapacity 0x8000000000000000 = true ∧
    (∃ r, unbuilt.crossing = .async r) ∧ (withLife .elaborating sync1).crossing = .sync :=
  ⟨rfl, by decide, by decide, ⟨_, rfl⟩, rfl⟩

theorem witness_ResetRestoresInitialValues :
    (sync1.life ≠ .elaborating ∧ sync1.crossing = .sync) ∧
    (settled9.life ≠ .elaborating ∧ (∃ r, settled9.crossing = .async r) ∧ settled9.capacity ≠ 0) ∧
    made4.life ≠ .elaborating ∧ held9.life ≠ .elaborating :=
  ⟨⟨by decide, rfl⟩, ⟨by decide, ⟨_, rfl⟩, by decide⟩, by decide, by decide⟩

theorem witness_ResetStateIsAsSpecified :
    Config.Params.wf { depth := 2, dataW := 1, clocking := .async, stages := 2, lineBytes := 8 } = true ∧
    Config.Params.wf { depth := 0x8000000000000000, dataW := 64, clocking := .sync, stages := 0, lineBytes := 64 } =
      true ∧
    ∃ r, (State.resetOf { depth := 2, dataW := 1, clocking := .async, stages := 2, lineBytes := 8 }).crossing =
      .async r :=
  ⟨by decide, by decide, ⟨_, rfl⟩⟩

theorem witness_NothingChangesCapacity :
    settled9.life ≠ .elaborating ∧ (∃ t, exec .reset settled9 = .next t) ∧
    (withInputs [.st 2] stale4).life ≠ .elaborating ∧ ∃ t, step (withInputs [.st 2] stale4) = .next t :=
  ⟨by decide, goes (by decide), by decide, goes (by decide)⟩

theorem witness_StepsKeepParameters :
    (∃ t, step (withInputs [.clk 0 1] sync1) = .next t) ∧
    (∃ r r' t, (withInputs [.wclk 0 true] behind3).crossing = .async r ∧
      step (withInputs [.wclk 0 true] behind3) = .next t ∧ t.crossing = .async r') ∧
    ∃ t, step (withInputs [.command ⟨.k, 8⟩] unbuilt) = .next t :=
  ⟨goes (by decide), ⟨_, _, _, rfl, rfl, rfl⟩, goes (by decide)⟩

theorem witness_OnlyConstructRaises :
    exec (.construct 3) unbuilt = .fault (.configError 3) ∧
    step (withInputs [.command ⟨.k, 3⟩] unbuilt) = .fault (.configError 3) := ⟨rfl, rfl⟩

theorem witness_RequestsAreIgnoredInReset :
    (0x10000000000000001 < 2 ^ (1 + held9.dataW) ∧ 1 < 2 ∧ held9.life = .inReset) ∧
    (made4.life ≠ .elaborating ∧ Nat.testBit 0x0FFFFFFFFFFFFFFFF made4.dataW = false ∧ Nat.testBit 0 0 = false) ∧
    (BlockInv held9 ∧ environmentInput held9.dataW (.wclk 0x10000000000000001 true) = false ∧
      ∃ t, runInput (.wclk 0x10000000000000001 true) held9 = .next t) :=
  ⟨by decide, by decide, held9_inv, by decide, goes (by decide)⟩

theorem witness_ResetUnderTrafficIsRefused :
    (0x10000000000000000 < 2 ^ (1 + settled9.dataW) ∧ settled9.life = .running ∧
      Nat.testBit 0x10000000000000000 settled9.dataW = true) ∧
    (made4.life = .constructed ∧ Nat.testBit 1 0 = true) := by decide

theorem witness_UseBeforeResetIsRefused :
    (exec (.construct 4) unbuilt = .next made4 ∧ made4.life = .constructed ∧ Instr.agent (.push 1) ≠ .environment ∧
      Instr.wf made4.dataW (.push 1) = true) ∧
    (unbuilt.life = .elaborating ∧ (∀ c, Instr.reset ≠ .construct c) ∧ Instr.wf unbuilt.dataW .reset = true) ∧
    (∃ t, runInput (.command ⟨.rs, 0⟩) made4 = .next t) ∧ (∃ t, runInput (.resetLow 0 0) made4 = .next t) ∧
    ∃ t, runInput (.command ⟨.k, 4⟩) unbuilt = .next t :=
  ⟨⟨rfl, rfl, by decide, by decide⟩, ⟨rfl, by simp, by decide⟩, goes (by decide), goes (by decide), goes (by decide)⟩

theorem witness_PushStoresAndPublishes :
    (∃ s : State, s.life = .running ∧ 1 < 2 ^ s.dataW ∧ Memory.wf s.storage ∧ s.head - tailP s ≠ s.capacity ∧ s.crossing = .sync) ∧
    ∃ s : State, s.life = .running ∧ 1 < 2 ^ s.dataW ∧ Memory.wf s.storage ∧ s.head - tailP s ≠ s.capacity ∧ ∃ r, s.crossing = .async r :=
  ⟨⟨sync1, by decide, by decide, by decide, by decide, rfl⟩,
    ⟨settled9, by decide, by decide, by decide, by decide, _, rfl⟩⟩

theorem witness_PushFailsWhenFull :
    stale4.life = .running ∧ stale4.head - tailP stale4 = stale4.capacity ∧
    sync3.life = .running ∧ sync3.head - tailP sync3 = sync3.capacity := by decide

theorem witness_PushCrossesCursorWrap :
    wrapState.life = .running ∧ Memory.wf wrapState.storage ∧ wrapState.head = 0xFFFFFFFFFFFFFFFF ∧
    wrapState.head - tailP wrapState ≠ wrapState.capacity := by decide

theorem witness_PopReturnsAndPublishes :
    (∃ s : State, s.life = .running ∧ s.tail ≠ headC s ∧ s.crossing = .sync) ∧
    ∃ s : State, s.life = .running ∧ s.tail ≠ headC s ∧ ∃ r, s.crossing = .async r :=
  ⟨⟨sync1, by decide, by decide, rfl⟩, ⟨settled9, by decide, by decide, _, rfl⟩⟩

theorem witness_PopFailsWhenEmpty :
    stale2.life = .running ∧ stale2.tail = headC stale2 ∧ sync0.life = .running ∧ sync0.tail = headC sync0 := by decide

theorem witness_PopReturnsOldestPushedValue :
    BlockInv settled9 ∧ settled9.life = .running ∧ empty settled9 = false := ⟨settled9_inv, by decide, by decide⟩

theorem witness_SyncTailMovesViewForward :
    ((2 : Nat) ≤ (stale4.tail - tailP stale4).toNat ∧ ∀ r, stale4.crossing = .async r → r.ts ≠ []) ∧
    ((0 : Nat) ≤ (sync1.tail - tailP sync1).toNat ∧ sync1.crossing = .sync) := by
  refine ⟨⟨by decide, ?_⟩, by decide, rfl⟩
  rintro r ⟨⟩
  decide

theorem witness_SyncHeadMovesViewForward :
    ((2 : Nat) ≤ (stale2.head - headC stale2).toNat ∧ ∀ r, stale2.crossing = .async r → r.hs ≠ []) ∧
    ((0 : Nat) ≤ (sync1.head - headC sync1).toNat ∧ sync1.crossing = .sync) := by
  refine ⟨⟨by decide, ?_⟩, by decide, rfl⟩
  rintro r ⟨⟩
  decide

theorem witness_ViewNeverPassesCursor :
    (stale4.tail - tailP stale4).toNat < 3 ∧ (stale2.head - headC stale2).toNat < 3 := by decide

theorem witness_SyncNeverRaisesFlag :
    (BlockInv stale4 ∧ ∃ t, exec (.syncTail 0) stale4 = .next t ∧ full t = true) ∧
    (BlockInv stale2 ∧ ∃ t, exec (.syncHead 0) stale2 = .next t ∧ empty t = true) :=
  ⟨⟨stale4_inv, _, rfl, by decide⟩, ⟨stale2_inv, _, rfl, by decide⟩⟩

theorem witness_SyncCommutesWithOtherSide :
    BlockInv behind3 ∧ behind3.life = .running ∧ 1 ≤ tailLag behind3 ∧ 1 ≤ headLag behind3 :=
  ⟨behind3_inv, by decide, by decide, by decide⟩

theorem witness_SyncFormViewsAreCursors : sync1.crossing = .sync ∧ sync1.life = .running := ⟨rfl, rfl⟩

theorem witness_InvariantHoldsAtReset :
    Config.Params.wf { depth := 2, dataW := 1, clocking := .sync, stages := 0, lineBytes := 8 } = true ∧
    Config.params.wf = true ∧ ParametersOk unbuilt ∧ ∃ t, exec (.construct 4) unbuilt = .next t :=
  ⟨by decide, by decide, ⟨by decide, by decide, by decide⟩, goes (by decide)⟩

theorem witness_EveryStepKeepsInvariant :
    (∃ s, BlockInv s ∧ ∃ t, step s = .next t) ∧
    (∃ t, step (withInputs [.wclk 0x1000000000000002A true] settled9) = .next t) ∧
    (∃ t, step (withInputs [.clk 0x1000000000000002A 1] sync1) = .next t) :=
  ⟨⟨stale4, stale4_inv, _, rfl⟩, goes (by decide), goes (by decide)⟩

theorem witness_EveryScheduleDeliversFifo :
    Config.params.wf = true ∧
    ∃ t, feed [.command ⟨.pc, 0x1000000000000002A⟩, .sh 1, .command ⟨.cc, 1⟩] (State.resetOf Config.params) = .next t ∧
      t.ghost.outs = [42] ∧ t.ghost.popped = 1 := ⟨by decide, _, rfl, by decide, by decide⟩

/-- For `RegistersStayWithinDepth`, `FlagsArePessimistic`, `SlotIsCountModDepth`, `SlotHandoffIsOrdered` and
`WriteAndReadSlotsDiffer`. -/
theorem witness_invariant_and_flags :
    BlockInv settled9 ∧ full settled9 = false ∧ empty settled9 = false ∧ tailP settled9 = settled9.tail ∧
    headC settled9 = settled9.head ∧
    (settled9.ghost.popped ≤ 8 ∧ 8 + 1 ≤ settled9.ghost.hc ∧ 8 < settled9.ghost.pushed) ∧ 6 + 1 ≤ settled9.ghost.tp :=
  ⟨settled9_inv, by decide⟩

theorem witness_RegionsMoveByPushAndPop :
    BlockInv settled9 ∧ settled9.life = .running ∧ full settled9 = false ∧ empty settled9 = false ∧
    (BlockInv stale4 ∧ stale4.life = .running ∧ Instr.agent (.push 1) ≠ .environment ∧
      (∃ t, exec (.push 1) stale4 = .next t) ∧ ¬ full stale4 = false) :=
  ⟨settled9_inv, by decide, by decide, by decide, stale4_inv, by decide, by decide, goes (by decide), by decide⟩

theorem witness_CursorsAdvanceByOne :
    environmentInput 64 (.command ⟨.pc, 0x1000000000000002A⟩) = false ∧ environmentInput 64 (.clk 0 1) = false ∧
    (∃ t, step (withInputs [.command ⟨.pc, 0x1000000000000002A⟩] settled9) = .next t) ∧
    ∃ t, step (withInputs [.clk 0 1] sync1) = .next t := ⟨by decide, by decide, goes (by decide), goes (by decide)⟩

theorem witness_ViewsNeverGoBack :
    BlockInv (withInputs [.rclk 1 true] behind3) ∧ environmentInput 64 (.rclk 1 true) = false ∧
    ∃ t, step (withInputs [.rclk 1 true] behind3) = .next t :=
  ⟨by cases behind3_inv; constructor <;> assumption,
    by decide, goes (by decide)⟩

theorem witness_AgentsWriteOnlyTheirOwn :
    Memory.wf settled9.storage ∧ Memory.wf behind3.storage ∧ (∃ r, settled9.crossing = .async r) ∧
    (Instr.agent (.push 1) = .producer ∧ ∃ t, exec (.push 1) settled9 = .next t) ∧
    (Instr.agent .pop = .consumer ∧ ∃ t, exec .pop settled9 = .next t) ∧
    (Instr.agent (.syncTail 1) = .st ∧ ∃ t, exec (.syncTail 1) behind3 = .next t) ∧
    (Instr.agent (.syncHead 1) = .sh ∧ ∃ t, exec (.syncHead 1) behind3 = .next t) :=
  ⟨by decide, by decide, ⟨_, rfl⟩, ⟨rfl, goes (by decide)⟩, ⟨rfl, goes (by decide)⟩, ⟨rfl, goes (by decide)⟩,
    rfl, goes (by decide)⟩

theorem witness_ResponsesStayOnTheirSide :
    (sync1 ≠ async1 ∧ sync1.head = async1.head ∧ tailP sync1 = tailP async1 ∧ sync1.capacity = async1.capacity ∧
      sync1.life = async1.life ∧ Instr.agent (.push 1) = .producer ∧ (∃ t, exec (.push 1) sync1 = .next t) ∧
      ∃ t, exec (.push 1) async1 = .next t) ∧
    (sync1.tail = async1.tail ∧ headC sync1 = headC async1 ∧ sync1.indexMask = async1.indexMask ∧
      memRead (readIndex sync1) sync1 = memRead (readIndex async1) async1 ∧
      sync1.life = async1.life ∧ Instr.agent .pop = .consumer ∧ (∃ t, exec .pop sync1 = .next t) ∧
      ∃ t, exec .pop async1 = .next t) ∧
    ((∃ t, runInput (.clk 0x10000000000000001 1) sync1 = .next t) ∧
      (∃ t, runInput (.clk 0x10000000000000001 0) sync1 = .next t) ∧
      ∃ t, runInput (.clk 0 1) sync1 = .next t) :=
  ⟨⟨by decide, by decide, by decide, by decide, by decide, by decide, goes (by decide), goes (by decide)⟩,
    ⟨by decide, by decide, by decide, by decide, by decide, by decide, goes (by decide), goes (by decide)⟩,
    goes (by decide), goes (by decide), goes (by decide)⟩

theorem witness_SyncCycleIsTwoAtomicSteps :
    (BlockInv sync3 ∧ empty sync3 = false ∧ ∃ t, runInput (.clk 0x10000000000000001 1) sync3 = .next t) ∧
    (BlockInv sync0 ∧ full sync0 = false ∧ ∃ t, runInput (.clk 0x10000000000000001 1) sync0 = .next t) :=
  ⟨⟨sync3_inv, by decide, goes (by decide)⟩, sync0_inv, by decide, goes (by decide)⟩

theorem witness_SameCyclePushAndPop :
    decode 64 ⟨.pc, 0x1000000000000000A⟩ = .ok (.push 10) ∧ decode 64 ⟨.cc, 1⟩ = .ok .pop ∧
    (BlockInv sync3 ∧ sync3.life = .running ∧ sync3.crossing = .sync ∧ region sync3 = .fullRegion) ∧
    (BlockInv sync0 ∧ sync0.life = .running ∧ sync0.crossing = .sync ∧ region sync0 = .emptyRegion) ∧
    (BlockInv sync1 ∧ sync1.life = .running ∧ sync1.crossing = .sync ∧ region sync1 = .partlyFilled) :=
  ⟨by decide, by decide, ⟨sync3_inv, by decide⟩, ⟨sync0_inv, by decide⟩, sync1_inv, by decide⟩

theorem witness_SyncFormIsAbstractMachine :
    BlockInv sync1 ∧ BlockInv async1 ∧ sync1.crossing = .sync ∧ (∃ r, async1.crossing = .async r) ∧
    abstract async1 = abstract sync1 ∧ ∃ t, exec .pop sync1 = .next t :=
  ⟨sync1_inv, async1_inv, rfl, ⟨_, rfl⟩, by decide, goes (by decide)⟩

theorem witness_SampleIsOldOrNewNeverOlder :
    (BlockInv stale2 ∧ ∃ r, stale2.crossing = .async r ∧ r.headGrayPrev ≠ r.headGray ∧ r.hs.headD 0 ≠ r.headGray) ∧
    (BlockInv stale4 ∧ ∃ r, stale4.crossing = .async r ∧ r.tailGrayPrev ≠ r.tailGray ∧ r.ts.headD 0 ≠ r.tailGray) :=
  ⟨⟨stale2_inv, _, rfl, by decide, by decide⟩, stale4_inv, _, rfl, by decide, by decide⟩

theorem witness_ClockEdgesAreAbstractSteps :
    BlockInv behind3 ∧ (∃ t, runInput (.wclk 0x10000000000000001 false) behind3 = .next t) ∧
    ∃ t, runInput (.rclk 1 true) behind3 = .next t := ⟨behind3_inv, goes (by decide), goes (by decide)⟩

theorem witness_EdgesShiftOwnChain :
    ∃ r, behind3.crossing = .async r ∧ 0 + 1 < r.ts.length ∧ 0 + 1 < r.hs.length ∧ r.ts ≠ [] ∧ r.hs ≠ [] ∧
      (∃ g, r.hs[r.hs.length - 1]? = some g) ∧ (∃ g, r.ts[r.ts.length - 1]? = some g) ∧
      (∃ t, runInput (.wclk 0 true) behind3 = .next t) ∧ (∃ t, runInput (.wclk 0 false) behind3 = .next t) ∧
      (∃ t, runInput (.rclk 0 true) behind3 = .next t) ∧ ∃ t, runInput (.rclk 0 false) behind3 = .next t :=
  ⟨_, rfl, by decide, by decide, by decide, by decide, ⟨_, rfl⟩, ⟨_, rfl⟩, goes (by decide), goes (by decide),
    goes (by decide), goes (by decide)⟩

/-- `N + 1` edges of `rclk`, all late where they may be, with edges of `wclk` between them. -/
def lateHeads : List Input := [.rclk 0 true, .wclk 0x10000000000000005 false, .rclk 1 true, .wclk 0 true, .rclk 0 true]

theorem witness_HeadCrossesInBoundedEdges :
    BlockInv stale2 ∧ stale2.life = .running ∧ (∀ x ∈ lateHeads, asyncEdge stale2.dataW x = true) ∧
    (∃ r, stale2.crossing = .async r ∧ r.hs.length + 1 ≤ lateHeads.countP isRclk ∧
      [Input.wclk 0 true, .rclk 1 false, .wclk 0 true, .rclk 0 true] =
        [.wclk 0 true] ++ .rclk 1 false :: [.wclk 0 true, .rclk 0 true] ∧
      (∀ y ∈ [Input.wclk 0 true], isRclk y = false) ∧
      r.hs.length ≤ [Input.wclk 0 true, .rclk 0 true].countP isRclk + 1) ∧
    (∃ t, feed lateHeads stale2 = .next t ∧ t.ghost.popped < stale2.ghost.pushed) ∧
    (BlockInv settled9 ∧ settled9.life = .running ∧
      ∃ r, settled9.crossing = .async r ∧ [Input.rclk 1 true].countP isRclk < r.hs.length ∧
        (∀ x ∈ [Input.rclk 1 true], isWclk x = false) ∧ ∀ h ∈ r.hs, h = lastStage r.hs) :=
  ⟨stale2_inv, by decide, by decide, ⟨_, rfl, by decide, rfl, by decide, by decide⟩, ⟨_, rfl, by decide⟩,
    settled9_inv, by decide, _, rfl, by decide, by decide, by simp [lastStage]⟩

/-- `N + 1` edges of `wclk`, all late where they may be, with edges of `rclk` between them. -/
def lateTails : List Input := [.wclk 0 true, .rclk 1 false, .wclk 0 true, .rclk 0 true, .wclk 0 true]

theorem witness_TailCrossesInBoundedEdges :
    BlockInv stale4 ∧ stale4.life = .running ∧ (∀ x ∈ lateTails, asyncEdge stale4.dataW x = true) ∧
    (∃ r, stale4.crossing = .async r ∧ r.ts.length + 1 ≤ lateTails.countP isWclk ∧
      [Input.rclk 0 true, .wclk 1 false, .rclk 0 true, .wclk 0 true] =
        [.rclk 0 true] ++ .wclk 1 false :: [.rclk 0 true, .wclk 0 true] ∧
      (∀ y ∈ [Input.rclk 0 true], isWclk y = false) ∧
      r.ts.length ≤ [Input.rclk 0 true, .wclk 0 true].countP isWclk + 1) ∧
    (∃ t, feed lateTails stale4 = .next t ∧ t.ghost.pushed < stale4.ghost.popped + depth stale4) ∧
    ∃ r, stale4.crossing = .async r ∧ [Input.wclk 1 true].countP isWclk < r.ts.length ∧
      (∀ x ∈ [Input.wclk 1 true], isRclk x = false) ∧ ∀ h ∈ r.ts, h = lastStage r.ts :=
  ⟨stale4_inv, by decide, by decide, ⟨_, rfl, by decide, rfl, by decide, by decide⟩, ⟨_, rfl, by decide⟩,
    _, rfl, by decide, by decide, by simp [lastStage]⟩

theorem witness_ClockEdgesComplete :
    sync1.life = .running ∧ 0x1000000000000000A < 2 ^ (1 + sync1.dataW) ∧ 1 < 2 ∧ sync1.crossing = .sync ∧
    settled9.life = .running ∧ ∃ r, settled9.crossing = .async r := ⟨rfl, by decide, by decide, rfl, rfl, _, rfl⟩

theorem witness_SettleBringsViewsUpToDate :
    behind3.life = .running ∧ ∀ r, behind3.crossing = .async r → r.ts ≠ [] ∧ r.hs ≠ [] := by
  refine ⟨rfl, ?_⟩
  rintro r ⟨⟩
  decide

theorem witness_SettledStateIsQuiet :
    BlockInv settled9 ∧ Settled settled9 ∧ quietInput 64 (.rclk 0 true) = true ∧
    ∃ t, runInput (.rclk 0 true) settled9 = .next t :=
  ⟨settled9_inv, ⟨by decide, by decide⟩, by decide, goes (by decide)⟩

/-- Two synchronising steps from `behind3`, then none that moves anything. -/
def fairRun : Nat → State
  | 0 => behind3
  | 1 => advanceTailP 1 behind3
  | _ + 2 => advanceHeadC 1 (advanceTailP 1 behind3)

theorem witness_PublishedCursorsAreEventuallySeen :
    BlockInv (fairRun 0) ∧ Execution fairRun ∧ FairTail fairRun ∧ FairHead fairRun := by
  refine ⟨behind3_inv, ?_, ?_, ?_⟩
  · intro n
    match n with
    | 0 => exact ⟨.syncTail 1, by decide, rfl⟩
    | 1 => exact ⟨.syncHead 1, by decide, rfl⟩
    | _ + 2 =>
      exact ⟨.syncTail 0, by decide, show exec (.syncTail 0) (advanceHeadC 1 (advanceTailP 1 behind3)) = _ from rfl⟩
  · intro n h
    exact absurd (by decide : tailP (fairRun 2) = (fairRun 2).tail) (h (n + 2) (by omega))
  · intro n h
    exact absurd (by decide : headC (fairRun 2) = (fairRun 2).head) (h (n + 2) (by omega))

theorem witness_RegisterNumbers :
    sync1.crossing = .sync ∧ ∃ r, settled9.crossing = .async r ∧ 1 < r.ts.length := ⟨rfl, _, rfl, by decide⟩

theorem witness_StateImageLayout :
    16 ≤ 64 ∧ 7 < 8 ∧ depth settled9 = 4 ∧ 3 < depth settled9 ∧ 7 < (settled9.dataW + 7) / 8 ∧
    (16 ≤ 80 % 64 ∧ 80 < 3 * 64) ∧ 3 * 64 + depth settled9 * ((settled9.dataW + 7) / 8) ≤ 224 := by decide

end Sys2Proof.Tests
end

section
/-! SUPPORT. The parameters of R10 read back from its state, and that each operation and each kind of input
keeps them (R29, R103). -/

namespace Sys2Proof.Machine

/-- The form and the number of stages: none in `SYNC`, the lengths of the two chains in `ASYNC` (R10, R28). -/
def Crossing.stages : Crossing → Option (Nat × Nat)
  | .sync => none
  | .async r => some (r.ts.length, r.hs.length)

section stages
variable {x : Crossing} {r : AsyncRegs}

@[simp] theorem Crossing.stages_sync : Crossing.sync.stages = none := rfl

@[simp] theorem Crossing.stages_async : (Crossing.async r).stages = some (r.ts.length, r.hs.length) := rfl

theorem Crossing.stages_eq_none : x.stages = none ↔ x = .sync := by cases x <;> simp

@[simp] theorem Crossing.stages_publishHead (h : Word) : (x.publishHead h).stages = x.stages := by cases x <;> rfl

@[simp] theorem Crossing.stages_publishTail (t : Word) : (x.publishTail t).stages = x.stages := by cases x <;> rfl

@[simp] theorem Crossing.stages_moveTailP (tail v : Word) : (x.moveTailP tail v).stages = x.stages := by
  cases x <;> simp [moveTailP, bringForward_length]

@[simp] theorem Crossing.stages_moveHeadC (head v : Word) : (x.moveHeadC head v).stages = x.stages := by
  cases x <;> simp [moveHeadC, bringForward_length]

@[simp] theorem Crossing.stages_cleared : x.cleared.stages = x.stages := by cases x <;> simp [Crossing.cleared]

@[simp] theorem Crossing.stages_shiftTs (late : Bool) :
    (Crossing.async (r.shiftTs late)).stages = (Crossing.async r).stages := by
  simp [AsyncRegs.shiftTs, shiftChain_length]

@[simp] theorem Crossing.stages_shiftHs (late : Bool) :
    (Crossing.async (r.shiftHs late)).stages = (Crossing.async r).stages := by
  simp [AsyncRegs.shiftHs, shiftChain_length]

end stages

/-- What R29 and R103 keep constant: `DATA_W`, the form and the number of stages. -/
def State.parameters (s : State) : Nat × Option (Nat × Nat) := (s.dataW, s.crossing.stages)

section parameters
variable {s : State} {r : AsyncRegs}

@[simp] theorem parameters_respondP (p : PResponse) : (respondP p s).parameters = s.parameters := rfl

@[simp] theorem parameters_respondC (c : CResponse) : (respondC c s).parameters = s.parameters := rfl

@[simp] theorem parameters_withInputs (l : List Input) : (withInputs l s).parameters = s.parameters := rfl

@[simp] theorem parameters_withLife (l : Life) : (withLife l s).parameters = s.parameters := rfl

@[simp] theorem parameters_mergeSides (p c : State) : (mergeSides s p c).parameters = s.parameters := rfl

@[simp] theorem parameters_enqueue (v : Slot) : (enqueue v s).parameters = s.parameters := by simp [State.parameters]

@[simp] theorem parameters_dequeue : (dequeue s).parameters = s.parameters := by simp [State.parameters]

@[simp] theorem parameters_advanceTailP (d : Nat) : (advanceTailP d s).parameters = s.parameters := by
  simp [State.parameters]

@[simp] theorem parameters_advanceHeadC (d : Nat) : (advanceHeadC d s).parameters = s.parameters := by
  simp [State.parameters]

@[simp] theorem parameters_cleared (l : Life) : (cleared l s).parameters = s.parameters := by simp [State.parameters]

theorem parameters_noteWclk (h : s.crossing = .async r) : (withAsync r.noteWclk s).parameters = s.parameters := by
  simp [State.parameters, h]

theorem parameters_noteRclk (h : s.crossing = .async r) : (withAsync r.noteRclk s).parameters = s.parameters := by
  simp [State.parameters, h]

theorem parameters_shiftTs (late : Bool) (h : s.crossing = .async r) :
    (shiftTs late r s).parameters = s.parameters := by
  rw [State.parameters, State.parameters, shiftTs_dataW, shiftTs_crossing, Crossing.stages_shiftTs, h]

theorem parameters_shiftHs (late : Bool) (h : s.crossing = .async r) :
    (shiftHs late r s).parameters = s.parameters := by
  rw [State.parameters, State.parameters, shiftHs_dataW, shiftHs_crossing, Crossing.stages_shiftHs, h]

end parameters

/-- Everything a `CONSTRUCT` that answers can do (R120, R125). -/
theorem execConstruct_eq_next {c : Word} {s t : State} :
    execConstruct c s = .next t ↔ s.life = .elaborating ∧ legalCapacity c = true ∧
      t = cleared .constructed { s with capacity := c, indexMask := c - 1 } := by
  rw [execConstruct_eq]
  by_cases hl : s.life = .elaborating
  · by_cases hc : legalCapacity c = true <;> simp [hl, hc, eq_comm]
  · simp [hl]

/-- A command word that answers selects an operation, which answers (R99). -/
theorem runCommand_eq_next {w : CommandWord} {s t : State} :
    runCommand w s = .next t ↔ ∃ i, decode s.dataW w = .ok i ∧ exec i s = .next t := by
  unfold runCommand
  cases decode s.dataW w <;> simp

section keepsParameters
variable {s t : State}

theorem exec_keeps_parameters {i : Instr} (h : exec i s = .next t) : t.parameters = s.parameters := by
  cases i with
  | construct c =>
    obtain ⟨-, -, rfl⟩ := execConstruct_eq_next.1 h
    exact parameters_cleared _
  | reset =>
    obtain ⟨-, rfl⟩ := execReset_eq_next.1 h
    simp
  | push v => obtain ⟨-, ⟨-, rfl⟩ | ⟨-, ⟨-, rfl⟩ | ⟨-, rfl⟩⟩⟩ := execPush_eq_next.1 h <;> simp
  | pIdle => obtain ⟨-, rfl⟩ | ⟨-, rfl⟩ := execPIdle_eq_next.1 h <;> simp
  | pop => obtain ⟨-, rfl⟩ | ⟨-, ⟨-, rfl⟩ | ⟨-, rfl⟩⟩ := execPop_eq_next.1 h <;> simp
  | cIdle => obtain ⟨-, rfl⟩ | ⟨-, rfl⟩ := execCIdle_eq_next.1 h <;> simp
  | syncTail d =>
    obtain ⟨-, -, rfl⟩ := execSyncTail_eq_next.1 h
    simp
  | syncHead d =>
    obtain ⟨-, -, rfl⟩ := execSyncHead_eq_next.1 h
    simp

theorem wclkEdge_keeps_parameters {pc : Nat} {late : Bool} (h : wclkEdge pc late s = .next t) :
    t.parameters = s.parameters := by
  obtain ⟨-, r, p, r', hs, hp, hr', rfl⟩ := wclkEdge_eq_next.1 h
  calc (shiftTs late r' p).parameters
      _ = p.parameters := parameters_shiftTs late hr'
      _ = (withAsync r.noteWclk s).parameters := exec_keeps_parameters hp
      _ = s.parameters := parameters_noteWclk hs

theorem rclkEdge_keeps_parameters {cc : Nat} {late : Bool} (h : rclkEdge cc late s = .next t) :
    t.parameters = s.parameters := by
  obtain ⟨-, r, c, r', hs, hc, hr', rfl⟩ := rclkEdge_eq_next.1 h
  calc (shiftHs late r' c).parameters
      _ = c.parameters := parameters_shiftHs late hr'
      _ = (withAsync r.noteRclk s).parameters := exec_keeps_parameters hc
      _ = s.parameters := parameters_noteRclk hs

theorem runInput_keeps_parameters {x : Input} (h : runInput x s = .next t) : t.parameters = s.parameters := by
  cases x with
  | command w =>
    obtain ⟨i, -, hi⟩ := runCommand_eq_next.1 h
    exact exec_keeps_parameters hi
  | st d => exact exec_keeps_parameters (i := .syncTail d) h
  | sh d => exact exec_keeps_parameters (i := .syncHead d) h
  | clk pc cc =>
    obtain ⟨-, -, -, p, c, -, -, rfl⟩ := clkCycle_eq_next.1 h
    simp
  | wclk pc late => exact wclkEdge_keeps_parameters h
  | rclk cc late => exact rclkEdge_keeps_parameters h
  | resetLow pc cc =>
    obtain ⟨-, -, -, -, rfl⟩ := resetCycle_eq_next.1 h
    simp
  | resetHigh =>
    obtain ⟨-, rfl⟩ := raiseReset_eq_next.1 h
    simp

theorem step_keeps_parameters (h : step s = .next t) : t.parameters = s.parameters := by
  cases hi : s.inputs with
  | nil =>
    rw [step_nil hi] at h
    cases h
    rfl
  | cons x rest =>
    rw [step_cons hi] at h
    simpa using runInput_keeps_parameters h

end keepsParameters

/-- Settles O12: the parameters, read back from the state, are kept by every input (`step_keeps_parameters`). -/
theorem stepsKeepParameters : Obligations.StepsKeepParameters := by
  intro s t h
  obtain ⟨hw, hx⟩ := Prod.mk.inj (step_keeps_parameters h)
  refine ⟨hw, ?_, fun r r' hr hr' => ?_⟩
  · rw [← Crossing.stages_eq_none, ← Crossing.stages_eq_none, hx]
  · simpa [hr, hr'] using hx

end Sys2Proof.Machine
end

section
/-! SUPPORT. Everything an operation of the producer and one of the consumer can do, over both of their commands: a response
alone, or the one change of the queue. -/

namespace Sys2Proof.Machine

/-- What an operation of the producer that answers can do: a response, quiet in reset; or, on a running block with room for
a value that fits, the value stored (R135, R147, R244). -/
inductive ProducerStep (s : State) : Instr → State → Prop
  | responds {i : Instr} {p : PResponse} (hp : s.life = .inReset → p = PResponse.quiet) : ProducerStep s i (respondP p s)
  | enqueues {v : Slot} (hrun : s.life = .running) (hv : v < 2 ^ s.dataW) (hf : full s = false) :
    ProducerStep s (.push v) (respondP { pushOk := true, full := false } (enqueue v s))

/-- What an operation of the consumer that answers can do: a response, quiet in reset; or, on a running block with a value
in view, the value taken (R160, R172, R244). -/
inductive ConsumerStep (s : State) : Instr → State → Prop
  | responds {i : Instr} {c : CResponse} (hc : s.life = .inReset → c = CResponse.quiet) : ConsumerStep s i (respondC c s)
  | dequeues (hrun : s.life = .running) (he : empty s = false) :
    ConsumerStep s .pop (respondC { popOk := true, empty := false, rdData := memRead (readIndex s) s } (dequeue s))

theorem not_inReset_of_running {s : State} {p : Prop} (h : s.life = .running) (hr : s.life = .inReset) : p := by
  rw [h] at hr
  cases hr

theorem producerStep_of_exec {i : Instr} {s t : State} (hi : i.agent = .producer) (h : exec i s = .next t) :
    ProducerStep s i t := by
  cases i with
  | push v =>
    obtain ⟨hv, ⟨-, rfl⟩ | ⟨hrun, ⟨-, rfl⟩ | ⟨hf, rfl⟩⟩⟩ := execPush_eq_next.1 h
    · exact .responds fun _ => rfl
    · exact .responds (not_inReset_of_running hrun)
    · exact .enqueues hrun hv hf
  | pIdle =>
    obtain ⟨-, rfl⟩ | ⟨hrun, rfl⟩ := execPIdle_eq_next.1 h
    · exact .responds fun _ => rfl
    · exact .responds (not_inReset_of_running hrun)
  | _ => cases hi

theorem consumerStep_of_exec {i : Instr} {s t : State} (hi : i.agent = .consumer) (h : exec i s = .next t) :
    ConsumerStep s i t := by
  cases i with
  | pop =>
    obtain ⟨-, rfl⟩ | ⟨hrun, ⟨-, rfl⟩ | ⟨he, rfl⟩⟩ := execPop_eq_next.1 h
    · exact .responds fun _ => rfl
    · exact .responds (not_inReset_of_running hrun)
    · exact .dequeues hrun he
  | cIdle =>
    obtain ⟨-, rfl⟩ | ⟨hrun, rfl⟩ := execCIdle_eq_next.1 h
    · exact .responds fun _ => rfl
    · exact .responds (not_inReset_of_running hrun)
  | _ => cases hi

/-- A producer command word is an operation of the producer (R99). -/
theorem agent_decodePC (dw w : Nat) : (decodePC dw w).agent = .producer := by
  rcases decodePC_cases dw w with ⟨v, -, e⟩ | e <;> rw [e] <;> rfl

/-- A consumer command word is an operation of the consumer (R99). -/
theorem agent_decodeCC (w : Nat) : (decodeCC w).agent = .consumer := by
  rcases decodeCC_cases w with e | e <;> rw [e] <;> rfl

theorem eq_syncTail_of_agent {i : Instr} (h : i.agent = .st) : ∃ d, i = .syncTail d := by
  cases i with
  | syncTail d => exact ⟨d, rfl⟩
  | _ => cases h

theorem eq_syncHead_of_agent {i : Instr} (h : i.agent = .sh) : ∃ d, i = .syncHead d := by
  cases i with
  | syncHead d => exact ⟨d, rfl⟩
  | _ => cases h

/-- A block that has been reset does what only such a block does (R243). -/
theorem ifReset_of_reset {o : Host.Outcome State Fault Refusal} {s : State} (h : s.life = .inReset ∨ s.life = .running) :
    ifReset o s = o := by
  unfold ifReset
  rcases h with h | h <;> rw [h]

/-- The merge of a cycle of `SYNC` is the consumer's command, then what the producer's did from the start of the cycle
(R258). -/
theorem mergeSides_consumerStep {i j : Instr} {s p c : State} (hx : s.crossing = .sync) (hp : ProducerStep s i p)
    (hc : ConsumerStep s j c) :
    (∃ a, (s.life = .inReset → a = PResponse.quiet) ∧ mergeSides s p c = respondP a c) ∨
    ∃ v, s.life = .running ∧ v < 2 ^ s.dataW ∧ full s = false ∧
      mergeSides s p c = respondP { pushOk := true, full := false } (enqueue v c) := by
  obtain ⟨capacity, indexMask, dataW, head, tail, storage, crossing, life, pOut, cOut, ghost, inputs⟩ := s
  obtain rfl : crossing = .sync := hx
  cases hp with
  | @responds _ a ha => exact .inl ⟨a, ha, by cases hc <;> rfl⟩
  | @enqueues v hrun hv hf => exact .inr ⟨v, hrun, hv, hf, by cases hc <;> rfl⟩

end Sys2Proof.Machine
end

section
/-! SUPPORT. The crossing as counts: what a gray register, a chain and `CrossingOk` say, and what each operation on the
crossing does to them. -/

namespace Sys2Proof.Safety

open Sys2Proof.Machine

/-- The code of a count reads back as the register value (R200). -/
@[simp] theorem gray2bin_grayOfCount (n : Nat) : gray2bin (grayOfCount n) = BitVec.ofNat 64 n := by
  simp only [grayOfCount, gray2bin, bin2gray, xorShift_xorShift, xorShift_64, Nat.reduceAdd]

@[simp] theorem grayOfCount_zero : grayOfCount 0 = 0#64 := bin2gray_zero

/-! ## The chains -/

section chains
variable {chain : List Word} {published seen : Nat}

/-- In falling counts the last is the least. -/
theorem getLast?_le {counts : List Nat} (h : counts.Pairwise fun newer older => older ≤ newer)
    (hl : counts.getLast? = some seen) : ∀ c ∈ counts, seen ≤ c := by
  obtain ⟨front, rfl⟩ := List.getLast?_eq_some_iff.1 hl
  intro c hc
  rcases List.mem_append.1 hc with hc | hc
  · exact (List.pairwise_append.1 h).2.2 c hc seen (by simp)
  · exact (List.mem_singleton.1 hc).ge

/-- The view a chain shows is its last count (R197). -/
theorem ChainOk.view (h : ChainOk chain published seen) : gray2bin (lastStage chain) = BitVec.ofNat 64 seen := by
  obtain ⟨counts, rfl, -, -, hl⟩ := h
  simp [lastStage, List.getLastD_eq_getLast?, hl]

theorem ChainOk.seen_le (h : ChainOk chain published seen) : seen ≤ published := by
  obtain ⟨counts, -, -, hle, hl⟩ := h
  exact hle seen (List.mem_of_getLast? hl)

theorem ChainOk.mono {published' : Nat} (h : ChainOk chain published seen) (hp : published ≤ published') :
    ChainOk chain published' seen := by
  obtain ⟨counts, hc, hm, hle, hl⟩ := h
  exact ⟨counts, hc, hm, fun c hc => (hle c hc).trans hp, hl⟩

/-- A chain of zeros carries the count 0 (R198). -/
theorem chainOk_zeros {n : Nat} (h : n ≠ 0) : ChainOk (List.replicate n 0) 0 0 := by
  refine ⟨List.replicate n 0, by simp, ?_, fun c hc => (List.eq_of_mem_replicate hc).le, ?_⟩
  · simp [List.pairwise_replicate]
  · simp [List.getLast?_replicate, h]

/-- An edge that takes in the code of a count no older than the first stage leaves a chain whose view is no older than
before (R194, R195). -/
theorem chainOk_shiftChain {counts : List Nat} {n : Nat} (hm : counts.Pairwise fun newer older => older ≤ newer)
    (hl : counts.getLast? = some seen) (hn : ∀ c ∈ counts, c ≤ n) (hp : n ≤ published) :
    ∃ seen', ChainOk (shiftChain (grayOfCount n) (counts.map grayOfCount)) published seen' ∧ seen ≤ seen' := by
  have hmem : seen ∈ counts := List.mem_of_getLast? hl
  have hne : (n :: counts).take counts.length ≠ [] := by
    cases counts with
    | nil => cases hmem
    | cons => simp
  have hsub : ∀ c ∈ (n :: counts).take counts.length, c = n ∨ c ∈ counts :=
    fun c hc => List.mem_cons.1 (List.mem_of_mem_take hc)
  refine ⟨((n :: counts).take counts.length).getLast hne, ⟨_, ?_, ?_, ?_, List.getLast?_eq_some_getLast hne⟩, ?_⟩
  · rw [shiftChain, List.length_map, List.map_take, List.map_cons]
  · exact (List.pairwise_cons.2 ⟨hn, hm⟩).sublist (List.take_sublist _ _)
  · intro c hc
    rcases hsub c hc with rfl | hc
    · exact hp
    · exact (hn c hc).trans hp
  · rcases hsub _ (List.getLast_mem hne) with h | h
    · rw [h]
      exact hn seen hmem
    · exact getLast?_le hm hl _ h

/-- What an edge of the sampling clock makes of a chain: the sample is the published count or, where it is late, the one
before, never older than the first stage (R196). -/
theorem ChainOk.shift {prev : Word} (h : ChainOk chain published seen) (hprev : PrevOk prev published) (late : Bool) :
    ∃ seen', ChainOk (shiftChain (sample (grayOfCount published) prev (chain.headD 0) late) chain) published seen' ∧
      seen ≤ seen' := by
  obtain ⟨counts, rfl, hm, hle, hl⟩ := h
  have present := chainOk_shiftChain hm hl hle le_rfl
  unfold sample
  split
  case isFalse => exact present
  case isTrue hlate =>
    simp only [Bool.and_eq_true, decide_eq_true_eq] at hlate
    rcases hprev with rfl | ⟨n, rfl, rfl⟩
    · exact present
    · refine chainOk_shiftChain hm hl (fun c hc => ?_) n.le_succ
      cases counts with
      | nil => cases hc
      | cons first older =>
        have hfirst : first ≠ n + 1 := fun e => hlate.2 (congrArg grayOfCount e)
        have hfirst : first ≤ n := by have := hle first (by simp); omega
        rcases List.mem_cons.1 hc with rfl | hc
        · exact hfirst
        · exact ((List.pairwise_cons.1 hm).1 c hc).trans hfirst

/-- An abstract synchronising step raises every count below the new view to it (R185, R186). -/
theorem ChainOk.bringForward {v : Nat} (h : ChainOk chain published seen) (hv : seen ≤ v) (hp : v ≤ published)
    (hclose : published - seen < 2 ^ 64) :
    ChainOk (bringForward (BitVec.ofNat 64 published) (BitVec.ofNat 64 v) chain) published v := by
  obtain ⟨counts, rfl, hm, hle, hl⟩ := h
  refine ⟨counts.map (max v), ?_, hm.map _ fun a b hab => max_le_max_left v hab, ?_, ?_⟩
  · simp only [Machine.bringForward, List.map_map]
    refine List.map_congr_left fun c hc => ?_
    have h1 := hle c hc
    have h2 := getLast?_le hm hl c hc
    have hiff : BitVec.ofNat 64 published - BitVec.ofNat 64 c ≤ BitVec.ofNat 64 published - BitVec.ofNat 64 v ↔ v ≤ c := by
      rw [BitVec.le_def, ofNat_sub_ofNat h1 (by omega), ofNat_sub_ofNat hp (by omega)]
      omega
    simp only [Function.comp, gray2bin_grayOfCount, hiff]
    split
    · rw [max_eq_right ‹_›]
    · rw [max_eq_left (by omega), grayOfCount]
  · intro c hc
    obtain ⟨a, ha, rfl⟩ := List.mem_map.1 hc
    exact max_le hp (hle a ha)
  · rw [List.getLast?_map, hl, Option.map_some, max_eq_left hv]

end chains

/-! ## The crossing -/

section crossing
variable {x : Crossing} {g : Ghost}

theorem CrossingOk.ts_view {r : AsyncRegs} (h : CrossingOk (.async r) g) :
    gray2bin (lastStage r.ts) = BitVec.ofNat 64 g.tp := by
  obtain ⟨-, -, -, -, -, -, hts, -⟩ := h
  exact hts.view

theorem CrossingOk.hs_view {r : AsyncRegs} (h : CrossingOk (.async r) g) :
    gray2bin (lastStage r.hs) = BitVec.ofNat 64 g.hc := by
  obtain ⟨-, -, -, -, -, -, -, hhs⟩ := h
  exact hhs.view

/-- In a state whose `tail` is the count of pops, `tail_p` is the count of the view (R25, R197). -/
theorem CrossingOk.tailP_eq {s : State} (h : CrossingOk s.crossing g) (ht : s.tail = BitVec.ofNat 64 g.popped) :
    tailP s = BitVec.ofNat 64 g.tp := by
  unfold tailP
  cases hx : s.crossing <;> rw [hx] at h
  case sync =>
    obtain ⟨-, htp⟩ := h
    exact ht.trans (congrArg _ htp.symm)
  case async r => exact h.ts_view

/-- In a state whose `head` is the count of pushes, `head_c` is the count of the view (R26, R197). -/
theorem CrossingOk.headC_eq {s : State} (h : CrossingOk s.crossing g) (hh : s.head = BitVec.ofNat 64 g.pushed) :
    headC s = BitVec.ofNat 64 g.hc := by
  unfold headC
  cases hx : s.crossing <;> rw [hx] at h
  case sync =>
    obtain ⟨hhc, -⟩ := h
    exact hh.trans (congrArg _ hhc.symm)
  case async r => exact h.hs_view

/-- Publishing `head` keeps the relation to the counts (R146, R189). -/
theorem CrossingOk.publishHead (h : CrossingOk x g) (v : Slot) :
    CrossingOk (x.publishHead (BitVec.ofNat 64 (g.pushed + 1))) (g.notePush v x) := by
  cases x with
  | sync =>
    obtain ⟨hhc, htp⟩ := h
    exact ⟨congrArg (· + 1) hhc, htp⟩
  | async r =>
    obtain ⟨hhead, htail, -, htprev, hlen, hlens, hts, hhs⟩ := h
    exact ⟨rfl, htail, .inr ⟨g.pushed, rfl, hhead⟩, htprev, hlen, hlens, hts, hhs.mono (Nat.le_succ _)⟩

/-- Publishing `tail` keeps the relation to the counts (R171, R189). -/
theorem CrossingOk.publishTail (h : CrossingOk x g) (v : Slot) :
    CrossingOk (x.publishTail (BitVec.ofNat 64 (g.popped + 1))) (g.notePop v x) := by
  cases x with
  | sync =>
    obtain ⟨hhc, htp⟩ := h
    exact ⟨hhc, congrArg (· + 1) htp⟩
  | async r =>
    obtain ⟨hhead, htail, hhprev, -, hlen, hlens, hts, hhs⟩ := h
    exact ⟨hhead, rfl, hhprev, .inr ⟨g.popped, rfl, htail⟩, hlen, hlens, hts.mono (Nat.le_succ _), hhs⟩

/-- `SYNC_TAIL(d)` keeps the relation to the counts (R185, R189). -/
theorem CrossingOk.moveTailP {d : Nat} (h : CrossingOk x g) (hd : g.tp + d ≤ g.popped)
    (hclose : g.popped - g.tp < 2 ^ 64) :
    CrossingOk (x.moveTailP (BitVec.ofNat 64 g.popped) (BitVec.ofNat 64 (g.tp + d))) { g with tp := g.tp + d } := by
  cases x with
  | sync =>
    obtain ⟨hhc, htp⟩ := h
    exact ⟨hhc, show g.tp + d = g.popped by omega⟩
  | async r =>
    obtain ⟨hhead, htail, hhprev, htprev, hlen, hlens, hts, hhs⟩ := h
    exact ⟨hhead, htail, hhprev, htprev, by rwa [bringForward_length], by rwa [bringForward_length],
      hts.bringForward (Nat.le_add_right _ _) hd hclose, hhs⟩

/-- `SYNC_HEAD(d)` keeps the relation to the counts (R186, R189). -/
theorem CrossingOk.moveHeadC {d : Nat} (h : CrossingOk x g) (hd : g.hc + d ≤ g.pushed)
    (hclose : g.pushed - g.hc < 2 ^ 64) :
    CrossingOk (x.moveHeadC (BitVec.ofNat 64 g.pushed) (BitVec.ofNat 64 (g.hc + d))) { g with hc := g.hc + d } := by
  cases x with
  | sync =>
    obtain ⟨hhc, htp⟩ := h
    exact ⟨show g.hc + d = g.pushed by omega, htp⟩
  | async r =>
    obtain ⟨hhead, htail, hhprev, htprev, hlen, hlens, hts, hhs⟩ := h
    exact ⟨hhead, htail, hhprev, htprev, hlen, by rwa [bringForward_length], hts,
      hhs.bringForward (Nat.le_add_right _ _) hd hclose⟩

/-- Every edge of `wclk` sets what `head_gray` was before it. -/
theorem CrossingOk.noteWclk {r : AsyncRegs} (h : CrossingOk (.async r) g) : CrossingOk (.async r.noteWclk) g := by
  obtain ⟨hhead, htail, -, htprev, hrest⟩ := h
  exact ⟨hhead, htail, .inl hhead, htprev, hrest⟩

/-- Every edge of `rclk` sets what `tail_gray` was before it. -/
theorem CrossingOk.noteRclk {r : AsyncRegs} (h : CrossingOk (.async r) g) : CrossingOk (.async r.noteRclk) g := by
  obtain ⟨hhead, htail, hhprev, -, hrest⟩ := h
  exact ⟨hhead, htail, hhprev, .inl htail, hrest⟩

/-- An edge of `wclk` moves the producer's view forward to some count not beyond `tail` (R195, R199). -/
theorem CrossingOk.shiftTs {r : AsyncRegs} (h : CrossingOk (.async r) g) (late : Bool) :
    ∃ tp, CrossingOk (.async (r.shiftTs late)) { g with tp := tp } ∧ g.tp ≤ tp ∧ tp ≤ g.popped := by
  obtain ⟨hhead, htail, hhprev, htprev, hlen, hlens, hts, hhs⟩ := h
  obtain ⟨tp, hts', hle⟩ := hts.shift htprev late
  rw [← htail] at hts'
  refine ⟨tp, ⟨hhead, htail, hhprev, .inl htail, ?_, ?_, hts', hhs⟩, hle, hts'.seen_le⟩ <;>
    simpa [AsyncRegs.shiftTs, shiftChain_length]

/-- An edge of `rclk` moves the consumer's view forward to some count not beyond `head` (R194, R199). -/
theorem CrossingOk.shiftHs {r : AsyncRegs} (h : CrossingOk (.async r) g) (late : Bool) :
    ∃ hc, CrossingOk (.async (r.shiftHs late)) { g with hc := hc } ∧ g.hc ≤ hc ∧ hc ≤ g.pushed := by
  obtain ⟨hhead, htail, hhprev, htprev, hlen, hlens, hts, hhs⟩ := h
  obtain ⟨hc, hhs', hle⟩ := hhs.shift hhprev late
  rw [← hhead] at hhs'
  refine ⟨hc, ⟨hhead, htail, .inl hhead, htprev, hlen, ?_, hts, hhs'⟩, hle, hhs'.seen_le⟩
  simpa [AsyncRegs.shiftHs, shiftChain_length]

/-- The cleared crossing of a block with legal parameters carries the counts of R42. -/
theorem crossingOk_cleared {s : State} (h : ParametersOk s) : CrossingOk s.crossing.cleared Ghost.zero := by
  obtain ⟨-, hx⟩ := h
  cases hs : s.crossing with
  | sync => exact ⟨rfl, rfl⟩
  | async r =>
    rw [hs] at hx
    obtain ⟨hlen, hlens⟩ := hx
    have zeros (chain : List Word) (hc : 2 ≤ chain.length) : ChainOk (chain.map fun _ => 0) 0 0 := by
      rw [List.map_const']
      exact chainOk_zeros (by omega)
    have hg : 0#64 = grayOfCount 0 := grayOfCount_zero.symm
    exact ⟨hg, hg, .inl hg, .inl hg, by simpa using hlen, by simpa using hlens,
      zeros r.ts hlen, zeros r.hs (hlens ▸ hlen)⟩

end crossing

end Sys2Proof.Safety
end

section
/-! SUPPORT. What the invariant says of the registers, the flags and the slots, in counts (R34, R45), and the statements
that say the same of every such state. -/

namespace Sys2Proof.Safety

open Sys2Proof.Machine

theorem region_eq_empty_iff {s : State} : region s = .emptyRegion ↔ fill s = 0 := by
  rw [fill, show 0 = (0 : Word).toNat from rfl, BitVec.toNat_inj, region]
  by_cases h0 : s.head - s.tail = 0
  · simp [h0]
  · rw [if_neg h0]
    split <;> simp only [reduceCtorEq, h0]

theorem region_eq_full_iff {s : State} : region s = .fullRegion ↔ fill s ≠ 0 ∧ fill s = depth s := by
  rw [ne_eq, ← region_eq_empty_iff, fill, depth, BitVec.toNat_inj, region]
  by_cases h0 : s.head - s.tail = 0
  · simp [h0]
  · rw [if_neg h0]
    split <;> simp [*]

section facts
variable {s : State} (h : BlockInv s)
include h

/-- R34 as one chain of counts, which spans less than `2^64`. -/
theorem BlockInv.counts : s.ghost.tp ≤ s.ghost.popped ∧ s.ghost.popped ≤ s.ghost.hc ∧ s.ghost.hc ≤ s.ghost.pushed ∧
    s.ghost.pushed ≤ s.ghost.tp + depth s ∧ depth s < 2 ^ 64 :=
  ⟨h.tpLePopped, h.poppedLeHC, h.hcLePushed, h.pushedWithinDepth, s.capacity.isLt⟩

theorem BlockInv.depth_eq_two_pow : ∃ a, 1 ≤ a ∧ a ≤ 63 ∧ depth s = 2 ^ a := legalCapacity_toNat h.capacityLegal

theorem BlockInv.depth_pos : 0 < depth s := by
  obtain ⟨a, -, -, ha⟩ := h.depth_eq_two_pow
  exact ha ▸ Nat.two_pow_pos a

theorem BlockInv.parametersOk : ParametersOk s := by
  refine ⟨h.dataWLegal, ?_⟩
  have hx := h.crossingOk
  cases hs : s.crossing <;> rw [hs] at hx
  case sync => trivial
  case async r =>
    obtain ⟨-, -, -, -, hlen, hlens, -⟩ := hx
    exact ⟨hlen, hlens⟩

/-! ## The differences of the registers (R31, R34, R45) -/

theorem BlockInv.fill_eq : fill s = s.ghost.pushed - s.ghost.popped := by
  obtain ⟨h1, h2, h3, h4, h5⟩ := h.counts
  rw [fill, h.headIsPushed, h.tailIsPopped, ofNat_sub_ofNat] <;> omega

theorem BlockInv.fill_le_depth : fill s ≤ depth s := by
  obtain ⟨h1, h2, h3, h4, h5⟩ := h.counts
  rw [h.fill_eq]
  omega

theorem BlockInv.headLag_eq : headLag s = s.ghost.pushed - s.ghost.hc := by
  obtain ⟨h1, h2, h3, h4, h5⟩ := h.counts
  rw [headLag, h.headIsPushed, h.headCIsHC, ofNat_sub_ofNat] <;> omega

theorem BlockInv.tailLag_eq : tailLag s = s.ghost.popped - s.ghost.tp := by
  obtain ⟨h1, h2, h3, h4, h5⟩ := h.counts
  rw [tailLag, h.tailIsPopped, h.tailPIsTP, ofNat_sub_ofNat] <;> omega

theorem BlockInv.headC_sub_tail : (headC s - s.tail).toNat = s.ghost.hc - s.ghost.popped := by
  obtain ⟨h1, h2, h3, h4, h5⟩ := h.counts
  rw [h.headCIsHC, h.tailIsPopped, ofNat_sub_ofNat] <;> omega

theorem BlockInv.head_sub_tailP : (s.head - tailP s).toNat = s.ghost.pushed - s.ghost.tp := by
  obtain ⟨h1, h2, h3, h4, h5⟩ := h.counts
  rw [h.headIsPushed, h.tailPIsTP, ofNat_sub_ofNat] <;> omega

theorem BlockInv.head_eq_tail_iff : s.head = s.tail ↔ s.ghost.pushed = s.ghost.popped := by
  obtain ⟨h1, h2, h3, h4, h5⟩ := h.counts
  rw [h.headIsPushed, h.tailIsPopped]
  exact ⟨ofNat_inj_of_close (by omega) (by omega), congrArg _⟩

/-! ## The flags and the regions (R36, R37) -/

theorem BlockInv.full_iff : full s = true ↔ s.ghost.pushed = s.ghost.tp + depth s := by
  obtain ⟨h1, h2, h3, h4, h5⟩ := h.counts
  rw [full, decide_eq_true_eq, ← BitVec.toNat_inj, h.head_sub_tailP]
  change _ = depth s ↔ _
  omega

theorem BlockInv.empty_iff : empty s = true ↔ s.ghost.hc = s.ghost.popped := by
  obtain ⟨h1, h2, h3, h4, h5⟩ := h.counts
  rw [empty, decide_eq_true_eq, h.headCIsHC, h.tailIsPopped]
  exact ⟨ofNat_inj_of_close h2 (by omega), congrArg _⟩

/-- A producer that sees room has room (R39). -/
theorem BlockInv.lt_of_not_full (hf : full s = false) : s.ghost.pushed < s.ghost.tp + depth s := by
  refine lt_of_le_of_ne h.pushedWithinDepth fun e => ?_
  rw [h.full_iff.2 e] at hf
  cases hf

/-- A consumer that sees a value has a value (R39). -/
theorem BlockInv.lt_of_not_empty (he : empty s = false) : s.ghost.popped < s.ghost.hc := by
  refine lt_of_le_of_ne h.poppedLeHC fun e => ?_
  rw [h.empty_iff.2 e.symm] at he
  cases he

theorem BlockInv.tailP_eq_tail_iff : tailP s = s.tail ↔ s.ghost.tp = s.ghost.popped := by
  obtain ⟨h1, h2, h3, h4, h5⟩ := h.counts
  rw [h.tailPIsTP, h.tailIsPopped, eq_comm, eq_comm (a := s.ghost.tp)]
  exact ⟨ofNat_inj_of_close h1 (by omega), congrArg _⟩

theorem BlockInv.headC_eq_head_iff : headC s = s.head ↔ s.ghost.hc = s.ghost.pushed := by
  obtain ⟨h1, h2, h3, h4, h5⟩ := h.counts
  rw [h.headCIsHC, h.headIsPushed, eq_comm, eq_comm (a := s.ghost.hc)]
  exact ⟨ofNat_inj_of_close h3 (by omega), congrArg _⟩

/-- A producer that sees room meets a buffer that is not full (R36, R39). -/
theorem BlockInv.fill_lt_of_not_full (hf : full s = false) : fill s < depth s := by
  have hroom := h.lt_of_not_full hf
  have htp := h.tpLePopped
  have hpos := h.depth_pos
  rw [h.fill_eq]
  omega

/-- A consumer that sees a value meets a buffer that is not empty (R36, R39). -/
theorem BlockInv.fill_pos_of_not_empty (he : empty s = false) : 0 < fill s := by
  have hvalue := h.lt_of_not_empty he
  have hhc := h.hcLePushed
  rw [h.fill_eq]
  omega

/-! ## The slots (R35, R46) -/

theorem BlockInv.writeIndex_eq : writeIndex s = s.ghost.pushed % depth s := by
  rw [writeIndex, h.headIsPushed, h.maskIsCapacityLess1, slotIndex_ofNat h.capacityLegal, depth]

theorem BlockInv.readIndex_eq : readIndex s = s.ghost.popped % depth s := by
  rw [readIndex, h.tailIsPopped, h.maskIsCapacityLess1, slotIndex_ofNat h.capacityLegal, depth]

theorem BlockInv.writeIndex_lt : writeIndex s < depth s := h.writeIndex_eq ▸ Nat.mod_lt _ h.depth_pos

theorem BlockInv.readIndex_lt : readIndex s < depth s := h.readIndex_eq ▸ Nat.mod_lt _ h.depth_pos

/-- Where a consumer sees a value, the slot it reads holds the oldest value still queued (R164). -/
theorem BlockInv.ins_popped (he : empty s = false) : s.ghost.ins[s.ghost.popped]? = some (memRead (readIndex s) s) := by
  rw [h.readIndex_eq]
  exact h.slotsHoldQueue _ le_rfl ((h.lt_of_not_empty he).trans_le h.hcLePushed)

/-- Where a producer sees room, the slot it writes holds no queued value (R81). -/
theorem BlockInv.mod_ne_writeIndex (hf : full s = false) {k : Nat} (h1 : s.ghost.popped ≤ k) (h2 : k < s.ghost.pushed) :
    k % depth s ≠ writeIndex s := by
  have hroom := h.lt_of_not_full hf
  have htp := h.tpLePopped
  rw [h.writeIndex_eq]
  intro e
  have hdvd : depth s ∣ s.ghost.pushed - k := (Nat.modEq_iff_dvd' h2.le).1 e
  have := Nat.le_of_dvd (by omega) hdvd
  omega

end facts

/-- Settles O33: each difference of registers is the difference of its counts, which R34 bounds. -/
theorem registersStayWithinDepth : Obligations.RegistersStayWithinDepth := by
  intro s h
  obtain ⟨h1, h2, h3, h4, h5⟩ := h.counts
  have hfill : (s.head - s.tail).toNat = _ := h.fill_eq
  have hheadLag : (s.head - headC s).toNat = _ := h.headLag_eq
  have htailLag : (s.tail - tailP s).toNat = _ := h.tailLag_eq
  rw [hfill, hheadLag, htailLag, h.headC_sub_tail, h.head_sub_tailP, h.head_eq_tail_iff]
  refine ⟨?_, ?_, ?_, ?_, ?_, ?_, ?_, Iff.rfl, Iff.rfl, rfl⟩ <;> omega

/-- Settles O34: the flags compare a cursor with a view, whose count is not past the other cursor's. -/
theorem flagsArePessimistic : Obligations.FlagsArePessimistic := by
  intro s h
  refine ⟨fun hf => ?_, fun he => ?_, h.full_iff, h.empty_iff, fun ht => ?_, fun hh => ?_⟩
  · exact (h.lt_of_not_full hf).trans_le (Nat.add_le_add_right h.tpLePopped _)
  · exact (h.lt_of_not_empty he).trans_le h.hcLePushed
  · rw [h.full_iff, h.tailP_eq_tail_iff.1 ht]
  · rw [h.empty_iff, h.headC_eq_head_iff.1 hh]

/-- Settles O35: `DEPTH` is a power of two, so masking a cursor takes its count modulo `DEPTH`. -/
theorem slotIsCountModDepth : Obligations.SlotIsCountModDepth := by
  intro s h
  obtain ⟨a, h1, h63, ha⟩ := h.depth_eq_two_pow
  have hlog : addressWidth s = a := by rw [addressWidth, ha, Nat.log2_two_pow]
  rw [hlog]
  exact ⟨h.writeIndex_eq, h.readIndex_eq, h.writeIndex_lt, h.readIndex_lt, ha, h1, h63⟩

end Sys2Proof.Safety
end

section
/-! SUPPORT. The invariant is kept: one lemma per named update of the state, then per operation, per input and per step;
and it holds at reset. -/

namespace Sys2Proof.Safety

open Sys2Proof.Machine

/-! ## The updates of the state -/

/-- The state with this crossing and with the views at these counts: what a synchronising step and a clock edge do to
the rest of the state. -/
def withViews (x : Crossing) (tp hc : Nat) (s : State) : State :=
  { s with crossing := x, ghost := { s.ghost with tp := tp, hc := hc } }

/-- The counts a push or pop of the form `SYNC` moves beside its own (R189). -/
theorem sameStep_le_one (x : Crossing) : x.sameStep ≤ 1 := by cases x <;> simp [Crossing.sameStep]

section keeps
variable {s : State} (h : BlockInv s)
include h

theorem BlockInv.inputs_changed (l : List Input) : BlockInv (withInputs l s) := { h with }

/-- A response changes nothing the invariant reads, but that the outputs in reset are the quiet ones. -/
theorem BlockInv.producer_responds {p : PResponse} (hp : s.life = .inReset → p = PResponse.quiet) :
    BlockInv (respondP p s) where
  __ := h
  heldInReset hr := by
    obtain ⟨hg, hs, -, hc⟩ := h.heldInReset hr
    exact ⟨hg, hs, hp hr, hc⟩

theorem BlockInv.consumer_responds {c : CResponse} (hc : s.life = .inReset → c = CResponse.quiet) :
    BlockInv (respondC c s) where
  __ := h
  heldInReset hr := by
    obtain ⟨hg, hs, hp, -⟩ := h.heldInReset hr
    exact ⟨hg, hs, hp, hc hr⟩

/-- Reset goes high: nothing is asked of a running block that is not asked of one in reset. -/
theorem BlockInv.released : BlockInv (withLife .running s) where
  __ := h
  instanceExists := nofun
  heldInReset := nofun

/-- Views that move forward, not past their cursors, and a crossing that carries them, keep the invariant. -/
theorem BlockInv.views_forward {x : Crossing} {tp hc : Nat}
    (hx : CrossingOk x { s.ghost with tp := tp, hc := hc }) (h1 : s.ghost.tp ≤ tp) (h2 : tp ≤ s.ghost.popped)
    (h3 : s.ghost.hc ≤ hc) (h4 : hc ≤ s.ghost.pushed) : BlockInv (withViews x tp hc s) where
  __ := h
  headCIsHC := CrossingOk.headC_eq (s := withViews x tp hc s) hx h.headIsPushed
  tailPIsTP := CrossingOk.tailP_eq (s := withViews x tp hc s) hx h.tailIsPopped
  poppedLeHC := h.poppedLeHC.trans h3
  hcLePushed := h4
  tpLePopped := h2
  pushedWithinDepth := h.pushedWithinDepth.trans (Nat.add_le_add_right h1 _)
  crossingOk := hx
  heldInReset hr := by
    obtain ⟨hg, hrest⟩ := h.heldInReset hr
    refine ⟨?_, hrest⟩
    rw [hg] at h2 h4
    obtain rfl : tp = 0 := Nat.le_zero.1 h2
    obtain rfl : hc = 0 := Nat.le_zero.1 h4
    simp only [withViews, hg]
    rfl

theorem BlockInv.tailP_advanced {d : Nat} (hd : d ≤ tailLag s) : BlockInv (advanceTailP d s) := by
  rw [h.tailLag_eq] at hd
  obtain ⟨h1, h2, h3, h4, h5⟩ := h.counts
  have hx := h.crossingOk.moveTailP (d := d) (by omega) (by omega)
  rw [BitVec.ofNat_add, ← h.tailIsPopped, ← h.tailPIsTP] at hx
  exact h.views_forward hx (Nat.le_add_right _ _) (by omega) le_rfl h3

theorem BlockInv.headC_advanced {d : Nat} (hd : d ≤ headLag s) : BlockInv (advanceHeadC d s) := by
  rw [h.headLag_eq] at hd
  obtain ⟨h1, h2, h3, h4, h5⟩ := h.counts
  have hx := h.crossingOk.moveHeadC (d := d) (by omega) (by omega)
  rw [BitVec.ofNat_add, ← h.headIsPushed, ← h.headCIsHC] at hx
  exact h.views_forward hx le_rfl h1 (Nat.le_add_right _ _) (by omega)

theorem BlockInv.async_changed {r : AsyncRegs} (hx : CrossingOk (.async r) s.ghost) : BlockInv (withAsync r s) :=
  h.views_forward hx le_rfl h.tpLePopped le_rfl h.hcLePushed

/-- The ghost `TP` follows the view over an edge of `wclk` (R199). -/
theorem BlockInv.ts_shifted {r : AsyncRegs} (hr : s.crossing = .async r) (late : Bool) :
    BlockInv (shiftTs late r s) := by
  obtain ⟨h1, h2, h3, h4, h5⟩ := h.counts
  have hx := h.crossingOk
  rw [hr] at hx
  obtain ⟨tp, hx', hle, hpop⟩ := hx.shiftTs late
  have hts : gray2bin (lastStage (r.shiftTs late).ts) = BitVec.ofNat 64 tp := hx'.ts_view
  have hmove : s.ghost.tp + (gray2bin (lastStage (r.shiftTs late).ts) - gray2bin (lastStage r.ts)).toNat = tp := by
    rw [hts, hx.ts_view, ofNat_sub_ofNat] <;> omega
  subst hmove
  exact h.views_forward hx' hle hpop le_rfl h3

/-- The ghost `HC` follows the view over an edge of `rclk` (R199). -/
theorem BlockInv.hs_shifted {r : AsyncRegs} (hr : s.crossing = .async r) (late : Bool) :
    BlockInv (shiftHs late r s) := by
  obtain ⟨h1, h2, h3, h4, h5⟩ := h.counts
  have hx := h.crossingOk
  rw [hr] at hx
  obtain ⟨hc, hx', hle, hpush⟩ := hx.shiftHs late
  have hhs : gray2bin (lastStage (r.shiftHs late).hs) = BitVec.ofNat 64 hc := hx'.hs_view
  have hmove : s.ghost.hc + (gray2bin (lastStage (r.shiftHs late).hs) - gray2bin (lastStage r.hs)).toNat = hc := by
    rw [hhs, hx.hs_view, ofNat_sub_ofNat] <;> omega
  subst hmove
  exact h.views_forward hx' le_rfl h1 hle hpush

/-- A value stored where the producer sees room becomes the youngest of the queue (R135, R46). -/
theorem BlockInv.enqueued {v : Slot} (hrun : s.life = .running) (hv : v < 2 ^ s.dataW) (hf : full s = false) :
    BlockInv (enqueue v s) := by
  have hroom := h.lt_of_not_full hf
  have hhead : s.head + 1 = BitVec.ofNat 64 (s.ghost.pushed + 1) := by rw [h.headIsPushed, BitVec.ofNat_add]; rfl
  have hx := h.crossingOk.publishHead v
  rw [← hhead] at hx
  exact {
    h with
    storageCanonical := Memory.write_wf h.storageCanonical _ _
    storageInRange := Memory.write_inRange h.storageInRange h.writeIndex_lt
    storageFits := Memory.write_fits h.storageFits hv
    headIsPushed := hhead
    headCIsHC := CrossingOk.headC_eq (s := enqueue v s) hx hhead
    tailPIsTP := (tailP_enqueue s v).trans h.tailPIsTP
    poppedLeHC := h.poppedLeHC.trans (Nat.le_add_right _ _)
    hcLePushed := Nat.add_le_add h.hcLePushed (sameStep_le_one _)
    pushedWithinDepth := hroom
    insLength := by rw [enqueue_ghost, Ghost.notePush, List.length_append, h.insLength]; rfl
    outsAreIns := by
      have hle : s.ghost.popped ≤ s.ghost.ins.length := h.insLength ▸ h.poppedLeHC.trans h.hcLePushed
      exact h.outsAreIns.trans (List.take_append_of_le_length hle).symm
    slotsHoldQueue := fun k h1 h2 => by
      have hread : memRead (k % depth s) (enqueue v s) = if k % depth s = writeIndex s then v else memRead (k % depth s) s :=
        Memory.read_write h.storageCanonical _ _ _
      change (s.ghost.ins ++ [v])[k]? = some (memRead (k % depth s) (enqueue v s))
      rw [hread]
      rcases Nat.lt_succ_iff_lt_or_eq.1 h2 with hlt | rfl
      · rw [if_neg (h.mod_ne_writeIndex hf h1 hlt), List.getElem?_append_left (h.insLength ▸ hlt)]
        exact h.slotsHoldQueue k h1 hlt
      · rw [if_pos h.writeIndex_eq.symm, ← h.insLength, List.getElem?_concat_length]
    crossingOk := hx
    heldInReset := not_inReset_of_running hrun }

/-- The value the consumer sees is taken from the queue, the oldest first (R160, R46). -/
theorem BlockInv.dequeued (hrun : s.life = .running) (he : empty s = false) : BlockInv (dequeue s) := by
  have htail : s.tail + 1 = BitVec.ofNat 64 (s.ghost.popped + 1) := by rw [h.tailIsPopped, BitVec.ofNat_add]; rfl
  have hx := h.crossingOk.publishTail (memRead (readIndex s) s)
  rw [← htail] at hx
  exact {
    h with
    tailIsPopped := htail
    headCIsHC := (headC_dequeue s).trans h.headCIsHC
    tailPIsTP := CrossingOk.tailP_eq (s := dequeue s) hx htail
    poppedLeHC := h.lt_of_not_empty he
    tpLePopped := Nat.add_le_add h.tpLePopped (sameStep_le_one _)
    pushedWithinDepth := h.pushedWithinDepth.trans (Nat.add_le_add_right (Nat.le_add_right _ _) _)
    outsAreIns := by
      change s.ghost.outs ++ [_] = s.ghost.ins.take (s.ghost.popped + 1)
      rw [List.take_add_one, ← h.outsAreIns, h.ins_popped he]
      rfl
    slotsHoldQueue := fun k h1 => h.slotsHoldQueue k (Nat.le_of_succ_le h1)
    crossingOk := hx
    heldInReset := not_inReset_of_running hrun }

end keeps

/-- The values of R42 meet the invariant in every block with legal parameters. -/
theorem blockInv_cleared {s : State} {l : Life} (hl : l ≠ .elaborating) (hp : ParametersOk s)
    (hc : legalCapacity s.capacity = true) (hm : s.indexMask = s.capacity - 1) : BlockInv (cleared l s) where
  instanceExists := hl
  dataWLegal := hp.1
  capacityLegal := hc
  maskIsCapacityLess1 := hm
  storageCanonical := Memory.zeroFill_wf
  storageInRange := fun _ h => by cases h
  storageFits := fun _ h => by cases h
  headIsPushed := rfl
  tailIsPopped := rfl
  headCIsHC := CrossingOk.headC_eq (s := cleared l s) (crossingOk_cleared hp) rfl
  tailPIsTP := CrossingOk.tailP_eq (s := cleared l s) (crossingOk_cleared hp) rfl
  poppedLeHC := le_rfl
  hcLePushed := le_rfl
  tpLePopped := le_rfl
  pushedWithinDepth := Nat.zero_le _
  insLength := rfl
  outsAreIns := rfl
  slotsHoldQueue := fun k _ h => absurd h k.not_lt_zero
  crossingOk := crossingOk_cleared hp
  heldInReset := fun _ => ⟨rfl, rfl, rfl, rfl⟩

/-! ## Operations, inputs, steps -/

section keepsOps
variable {s t : State} (h : BlockInv s)
include h

theorem BlockInv.reset {l : Life} (hl : l ≠ .elaborating) : BlockInv (cleared l s) :=
  blockInv_cleared hl h.parametersOk h.capacityLegal h.maskIsCapacityLess1

theorem BlockInv.producerStep {i : Instr} (hp : ProducerStep s i t) : BlockInv t := by
  cases hp with
  | responds hp => exact h.producer_responds hp
  | enqueues hrun hv hf => exact (h.enqueued hrun hv hf).producer_responds (not_inReset_of_running hrun)

theorem BlockInv.consumerStep {i : Instr} (hc : ConsumerStep s i t) : BlockInv t := by
  cases hc with
  | responds hc => exact h.consumer_responds hc
  | dequeues hrun he => exact (h.dequeued hrun he).consumer_responds (not_inReset_of_running hrun)

theorem BlockInv.exec {i : Instr} (e : exec i s = .next t) : BlockInv t := by
  cases i with
  | construct c => exact absurd (execConstruct_eq_next.1 e).1 h.instanceExists
  | reset =>
    obtain ⟨-, rfl⟩ := execReset_eq_next.1 e
    exact h.reset nofun
  | push v => exact h.producerStep (producerStep_of_exec rfl e)
  | pIdle => exact h.producerStep (producerStep_of_exec rfl e)
  | pop => exact h.consumerStep (consumerStep_of_exec rfl e)
  | cIdle => exact h.consumerStep (consumerStep_of_exec rfl e)
  | syncTail d =>
    obtain ⟨-, hd, rfl⟩ := execSyncTail_eq_next.1 e
    exact h.tailP_advanced hd
  | syncHead d =>
    obtain ⟨-, hd, rfl⟩ := execSyncHead_eq_next.1 e
    exact h.headC_advanced hd

/-- A consumer's operation does not fill the buffer (R174). -/
theorem BlockInv.not_full_of_consumerStep {i : Instr} (hc : ConsumerStep s i t) (hf : full s = false) :
    full t = false := by
  have ht := h.consumerStep hc
  have hroom := h.lt_of_not_full hf
  have hmono : t.ghost.pushed = s.ghost.pushed ∧ s.ghost.tp ≤ t.ghost.tp ∧ depth t = depth s := by
    cases hc with
    | responds => exact ⟨rfl, le_rfl, rfl⟩
    | dequeues => exact ⟨rfl, Nat.le_add_right _ _, rfl⟩
  obtain ⟨h1, h2, h3⟩ := hmono
  rw [Bool.eq_false_iff, ne_eq, ht.full_iff]
  omega

/-- A cycle of `clk` is, to the invariant, the consumer's command and then the producer's (R258). -/
theorem BlockInv.clkCycle {pc cc : Nat} (e : clkCycle pc cc s = .next t) : BlockInv t := by
  obtain ⟨hx, -, -, p, c, hp, hc, rfl⟩ := clkCycle_eq_next.1 e
  have hp := producerStep_of_exec (agent_decodePC _ _) hp
  obtain ⟨-, -, hw, -, -, hlife, -⟩ := exec_decodeCC_frame hc
  have hc := consumerStep_of_exec (agent_decodeCC _) hc
  have hinv := h.consumerStep hc
  rcases mergeSides_consumerStep hx hp hc with ⟨a, ha, hm⟩ | ⟨v, hrun, hv, hf, hm⟩ <;> rw [hm]
  · exact hinv.producer_responds (hlife ▸ ha)
  · have hrun : c.life = .running := hlife.trans hrun
    exact (hinv.enqueued hrun (hw ▸ hv) (h.not_full_of_consumerStep hc hf)).producer_responds
      (not_inReset_of_running hrun)

theorem BlockInv.wclkEdge {pc : Nat} {late : Bool} (e : wclkEdge pc late s = .next t) : BlockInv t := by
  obtain ⟨-, r, p, r', hr, hp, hr', rfl⟩ := wclkEdge_eq_next.1 e
  have hx := (hr ▸ h.crossingOk).noteWclk
  exact ((h.async_changed hx).exec hp).ts_shifted hr' late

theorem BlockInv.rclkEdge {cc : Nat} {late : Bool} (e : rclkEdge cc late s = .next t) : BlockInv t := by
  obtain ⟨-, r, c, r', hr, hc, hr', rfl⟩ := rclkEdge_eq_next.1 e
  have hx := (hr ▸ h.crossingOk).noteRclk
  exact ((h.async_changed hx).exec hc).hs_shifted hr' late

theorem BlockInv.runInput {x : Input} (e : runInput x s = .next t) : BlockInv t := by
  cases x with
  | command w =>
    obtain ⟨i, -, hi⟩ := runCommand_eq_next.1 e
    exact h.exec hi
  | st d => exact h.exec (i := .syncTail d) e
  | sh d => exact h.exec (i := .syncHead d) e
  | clk pc cc => exact h.clkCycle e
  | wclk pc late => exact h.wclkEdge e
  | rclk cc late => exact h.rclkEdge e
  | resetLow pc cc =>
    obtain ⟨-, -, -, -, rfl⟩ := resetCycle_eq_next.1 e
    exact h.reset nofun
  | resetHigh =>
    obtain ⟨-, rfl⟩ := raiseReset_eq_next.1 e
    exact h.released

theorem BlockInv.step (e : step s = .next t) : BlockInv t := by
  cases hi : s.inputs with
  | nil =>
    rw [step_nil hi] at e
    cases e
    exact h
  | cons x rest =>
    rw [step_cons hi] at e
    exact (h.inputs_changed rest).runInput e

end keepsOps

/-- Settles O31: every input keeps the invariant (`BlockInv.runInput`). -/
theorem everyStepKeepsInvariant : Obligations.EveryStepKeepsInvariant := fun _ _ => BlockInv.step

/-! ## Reset -/

/-- The reset state of legal parameters is what `RESET` leaves of itself. -/
theorem cleared_resetOf (p : Config.Params) : cleared .running (State.resetOf p) = State.resetOf p := by
  obtain ⟨depth, dataW, clocking, stages, lineBytes⟩ := p
  cases clocking <;> simp [cleared, State.resetOf, Crossing.resetOf, Crossing.cleared, Memory.zeroFill]

theorem parametersOk_resetOf {p : Config.Params} (hw : legalDataW p.dataW = true)
    (hs : legalStages p.clocking p.stages = true) : ParametersOk (State.resetOf p) := by
  obtain ⟨depth, dataW, clocking, stages, lineBytes⟩ := p
  refine ⟨hw, ?_⟩
  cases clocking with
  | sync => trivial
  | async => simpa [legalStages, State.resetOf, Crossing.resetOf] using hs

theorem blockInv_resetOf {p : Config.Params} (h : p.wf = true) : BlockInv (State.resetOf p) := by
  simp only [Config.Params.wf, Bool.and_eq_true] at h
  obtain ⟨⟨⟨hc, hw⟩, hs⟩, -⟩ := h
  rw [← cleared_resetOf]
  exact blockInv_cleared nofun (parametersOk_resetOf hw hs) hc rfl

/-- Settles O30: reset and construction both leave a cleared block with legal parameters (`blockInv_cleared`). -/
theorem invariantHoldsAtReset : Obligations.InvariantHoldsAtReset := by
  refine ⟨blockInv_resetOf (by decide), fun _ => blockInv_resetOf, fun c s t hp h => ?_⟩
  obtain ⟨-, hc, rfl⟩ := execConstruct_eq_next.1 h
  exact blockInv_cleared nofun hp hc rfl

end Sys2Proof.Safety
end

section
/-! SUPPORT. What each agent moves and writes (R36, R41), and that the ghost state is not read (R33): the statements about
single operations and inputs. -/

namespace Sys2Proof.Machine

open Sys2Proof.Safety

/-! ## The regions -/

section regions
variable {s : State} (h : BlockInv s)
include h

theorem fill_enqueue {v : Slot} (hrun : s.life = .running) (hv : v < 2 ^ s.dataW) (hf : full s = false) :
    fill (enqueue v s) = fill s + 1 := by
  have hle := h.poppedLeHC.trans h.hcLePushed
  rw [(h.enqueued hrun hv hf).fill_eq, h.fill_eq]
  change s.ghost.pushed + 1 - s.ghost.popped = _
  omega

theorem fill_dequeue (hrun : s.life = .running) (he : empty s = false) : fill (dequeue s) + 1 = fill s := by
  have hlt := (h.lt_of_not_empty he).trans_le h.hcLePushed
  rw [(h.dequeued hrun he).fill_eq, h.fill_eq]
  change s.ghost.pushed - (s.ghost.popped + 1) + 1 = _
  omega

end regions

/-- What is neither a successful push nor a successful pop leaves both cursors and the capacity, of which the fill and the
region are functions. -/
theorem exec_keeps_fill {i : Instr} {s t : State} (hi : i.agent ≠ .environment) (e : exec i s = .next t)
    (hpush : ¬ ((∃ v, i = .push v) ∧ full s = false)) (hpop : ¬ (i = .pop ∧ empty s = false)) :
    fill t = fill s ∧ region t = region s := by
  cases hagent : i.agent with
  | producer =>
    cases producerStep_of_exec hagent e with
    | responds => exact ⟨rfl, rfl⟩
    | enqueues _ _ hf => exact absurd ⟨⟨_, rfl⟩, hf⟩ hpush
  | consumer =>
    cases consumerStep_of_exec hagent e with
    | responds => exact ⟨rfl, rfl⟩
    | dequeues _ he => exact absurd ⟨rfl, he⟩ hpop
  | st =>
    obtain ⟨d, rfl⟩ := eq_syncTail_of_agent hagent
    obtain ⟨-, -, rfl⟩ := execSyncTail_eq_next.1 e
    exact ⟨rfl, rfl⟩
  | sh =>
    obtain ⟨d, rfl⟩ := eq_syncHead_of_agent hagent
    obtain ⟨-, -, rfl⟩ := execSyncHead_eq_next.1 e
    exact ⟨rfl, rfl⟩
  | environment => exact absurd hagent hi

/-- Settles O38: a push and a pop move one count each (`fill_enqueue`, `fill_dequeue`), and nothing else moves one
(`exec_keeps_fill`). -/
theorem regionsMoveByPushAndPop : Obligations.RegionsMoveByPushAndPop := by
  intro s h hrun
  refine ⟨fun v hv hf => ?_, fun he => ?_, fun i t => exec_keeps_fill⟩
  · have hlt := h.fill_lt_of_not_full hf
    have hfill := fill_enqueue h hrun hv hf
    refine ⟨_, execPush_eq_next.2 ⟨hv, .inr ⟨hrun, .inr ⟨hf, rfl⟩⟩⟩, hfill, fun hr => ?_, fun hr => ?_⟩
    · exact hlt.ne (region_eq_full_iff.1 hr).2
    · exact Nat.succ_ne_zero _ (hfill.symm.trans (region_eq_empty_iff.1 hr))
  · have hpos := h.fill_pos_of_not_empty he
    have hfill := fill_dequeue h hrun he
    refine ⟨_, execPop_eq_next.2 (.inr ⟨hrun, .inr ⟨he, rfl⟩⟩), hfill, fun hr => ?_, fun hr => ?_⟩
    · exact hpos.ne' (region_eq_empty_iff.1 hr)
    · have hfull : fill (dequeue s) = depth s := (region_eq_full_iff.1 hr).2
      have := h.fill_le_depth
      omega

/-! ## The cursors -/

/-- `head` stays, or advances with the response that says so (R23). -/
def HeadStep (s t : State) : Prop :=
  t.head = s.head ∨ (t.head = s.head + 1 ∧ t.pOut = { pushOk := true, full := false })

/-- `tail` stays, or advances with a response that says so (R24). -/
def TailStep (s t : State) : Prop :=
  t.tail = s.tail ∨ (t.tail = s.tail + 1 ∧ t.cOut.popOk = true ∧ t.cOut.empty = false)

section cursors
variable {i : Instr} {s t : State}

theorem ProducerStep.headStep (h : ProducerStep s i t) : HeadStep s t := by
  cases h with
  | responds => exact .inl rfl
  | enqueues => exact .inr ⟨rfl, rfl⟩

theorem ProducerStep.tail_eq (h : ProducerStep s i t) : t.tail = s.tail := by cases h <;> rfl

theorem ConsumerStep.tailStep (h : ConsumerStep s i t) : TailStep s t := by
  cases h with
  | responds => exact .inl rfl
  | dequeues => exact .inr ⟨rfl, rfl, rfl⟩

theorem ConsumerStep.head_eq (h : ConsumerStep s i t) : t.head = s.head := by cases h <;> rfl

theorem exec_cursorSteps (hi : i.agent ≠ .environment) (e : exec i s = .next t) : HeadStep s t ∧ TailStep s t := by
  cases hagent : i.agent with
  | producer =>
    have h := producerStep_of_exec hagent e
    exact ⟨h.headStep, .inl h.tail_eq⟩
  | consumer =>
    have h := consumerStep_of_exec hagent e
    exact ⟨.inl h.head_eq, h.tailStep⟩
  | st =>
    obtain ⟨d, rfl⟩ := eq_syncTail_of_agent hagent
    obtain ⟨-, -, rfl⟩ := execSyncTail_eq_next.1 e
    exact ⟨.inl rfl, .inl rfl⟩
  | sh =>
    obtain ⟨d, rfl⟩ := eq_syncHead_of_agent hagent
    obtain ⟨-, -, rfl⟩ := execSyncHead_eq_next.1 e
    exact ⟨.inl rfl, .inl rfl⟩
  | environment => exact absurd hagent hi

theorem runInput_cursorSteps {x : Input} (hx : environmentInput s.dataW x = false) (e : runInput x s = .next t) :
    HeadStep s t ∧ TailStep s t := by
  cases x with
  | command w =>
    obtain ⟨i, hi, e⟩ := runCommand_eq_next.1 e
    exact exec_cursorSteps (by simpa [environmentInput, hi] using hx) e
  | st d => exact exec_cursorSteps (i := .syncTail d) nofun e
  | sh d => exact exec_cursorSteps (i := .syncHead d) nofun e
  | clk pc cc =>
    obtain ⟨-, -, -, p, c, hp, hc, rfl⟩ := clkCycle_eq_next.1 e
    exact ⟨(producerStep_of_exec (agent_decodePC _ _) hp).headStep,
      (consumerStep_of_exec (agent_decodeCC _) hc).tailStep⟩
  | wclk pc late =>
    obtain ⟨-, r, p, r', -, hp, -, rfl⟩ := wclkEdge_eq_next.1 e
    have h := producerStep_of_exec (agent_decodePC _ _) hp
    exact ⟨h.headStep, .inl h.tail_eq⟩
  | rclk cc late =>
    obtain ⟨-, r, c, r', -, hc, -, rfl⟩ := rclkEdge_eq_next.1 e
    have h := consumerStep_of_exec (agent_decodeCC _) hc
    exact ⟨.inl h.head_eq, h.tailStep⟩
  | resetLow => cases hx
  | resetHigh => cases hx

end cursors

/-- Settles O39: `head` moves only in the producer's operation, `tail` only in the consumer's (`runInput_cursorSteps`). -/
theorem cursorsAdvanceByOne : Obligations.CursorsAdvanceByOne := by
  intro s t x rest hs hx e
  rw [step_cons hs] at e
  exact runInput_cursorSteps (s := withInputs rest s) hx e

/-! ## What each agent writes -/

section frames
variable {i : Instr} {s t : State}

theorem ProducerStep.tailP_eq (h : ProducerStep s i t) : tailP t = tailP s := by
  cases h <;> simp

theorem ProducerStep.memRead_eq (h : ProducerStep s i t) (hm : Memory.wf s.storage) {j : Nat} (hj : j ≠ writeIndex s) :
    memRead j t = memRead j s := by
  cases h with
  | responds => rfl
  | @enqueues v => exact (Memory.read_write hm (writeIndex s) v j).trans (if_neg hj)

theorem ProducerStep.crossing (h : ProducerStep s i t) {r : AsyncRegs} (hr : s.crossing = .async r) :
    ∃ r', t.crossing = .async r' ∧ r'.tailGray = r.tailGray ∧ r'.ts = r.ts ∧ r'.hs = r.hs := by
  cases h with
  | responds => exact ⟨r, hr, rfl, rfl, rfl⟩
  | enqueues => exact ⟨_, congrArg (Crossing.publishHead (s.head + 1)) hr, rfl, rfl, rfl⟩

theorem ConsumerStep.headC_eq (h : ConsumerStep s i t) : headC t = headC s := by
  cases h <;> simp

theorem ConsumerStep.crossing (h : ConsumerStep s i t) {r : AsyncRegs} (hr : s.crossing = .async r) :
    ∃ r', t.crossing = .async r' ∧ r'.headGray = r.headGray ∧ r'.ts = r.ts ∧ r'.hs = r.hs := by
  cases h with
  | responds => exact ⟨r, hr, rfl, rfl, rfl⟩
  | dequeues => exact ⟨_, congrArg (Crossing.publishTail (s.tail + 1)) hr, rfl, rfl, rfl⟩

end frames

/-- Settles O41: per agent, the frame of everything its operations can do. -/
theorem agentsWriteOnlyTheirOwn : Obligations.AgentsWriteOnlyTheirOwn := by
  intro i s t hm e
  refine ⟨fun hi => ?_, fun hi => ?_, fun hi => ?_, fun hi => ?_⟩
  · have h := producerStep_of_exec hi e
    exact ⟨h.tail_eq, h.tailP_eq, by cases h <;> rfl, fun j => h.memRead_eq hm, fun r => h.crossing⟩
  · have h := consumerStep_of_exec hi e
    exact ⟨h.head_eq, h.headC_eq, by cases h <;> rfl, by cases h <;> rfl, fun r => h.crossing⟩
  · obtain ⟨d, rfl⟩ := eq_syncTail_of_agent hi
    obtain ⟨-, -, rfl⟩ := execSyncTail_eq_next.1 e
    exact ⟨rfl, rfl, headC_advanceTailP s d, rfl, fun r hr =>
      ⟨_, congrArg (Crossing.moveTailP s.tail (tailP s + BitVec.ofNat 64 d)) hr, rfl, rfl, rfl⟩⟩
  · obtain ⟨d, rfl⟩ := eq_syncHead_of_agent hi
    obtain ⟨-, -, rfl⟩ := execSyncHead_eq_next.1 e
    exact ⟨rfl, rfl, tailP_advanceHeadC s d, rfl, fun r hr =>
      ⟨_, congrArg (Crossing.moveHeadC s.head (headC s + BitVec.ofNat 64 d)) hr, rfl, rfl, rfl⟩⟩

end Sys2Proof.Machine
end

section
/-! SUPPORT. The ghost state is not read (R33): each part of a step does the same, but for the ghost state, from a state
and from the state without its ghost part. -/

namespace Sys2Proof.Machine

open Sys2Proof.Safety

@[simp] theorem eraseGhost_dataW (s : State) : (eraseGhost s).dataW = s.dataW := rfl

@[simp] theorem eraseGhost_crossing (s : State) : (eraseGhost s).crossing = s.crossing := rfl

@[simp] theorem eraseGhost_life (s : State) : (eraseGhost s).life = s.life := rfl

/-- Two parts of a step that do the same but for the ghost state, from any two states equal but for it. -/
def SameButGhost (f g : State → Host.Outcome State Fault Refusal) : Prop :=
  ∀ s t, eraseGhost s = eraseGhost t → mapNext eraseGhost (f s) = mapNext eraseGhost (g t)

/-- What does the same from a state and from the state without its ghost part reads no ghost state. -/
theorem sameButGhost_of_erase {f : State → Host.Outcome State Fault Refusal}
    (h : ∀ s, mapNext eraseGhost (f s) = mapNext eraseGhost (f (eraseGhost s))) : SameButGhost f f := by
  intro s t e
  rw [h s, h t, e]

/-! Tests on what is not ghost state turn out alike. -/

theorem map_ite_congr {α β : Type} (f : α → β) {c d : Prop} [Decidable c] [Decidable d] {a a' b b' : α} (h : c ↔ d)
    (ha : f a = f a') (hb : f b = f b') : f (if c then a else b) = f (if d then a' else b') := by
  by_cases hc : c
  · rw [if_pos hc, if_pos (h.1 hc), ha]
  · rw [if_neg hc, if_neg (h.not.1 hc), hb]

theorem mapNext_ifReset_congr {o p : Host.Outcome State Fault Refusal} {s t : State} (hl : s.life = t.life)
    (ho : mapNext eraseGhost o = mapNext eraseGhost p) :
    mapNext eraseGhost (ifReset o s) = mapNext eraseGhost (ifReset p t) := by
  unfold ifReset
  rw [← hl]
  cases s.life
  case elaborating => rfl
  case constructed => rfl
  case inReset => exact ho
  case running => exact ho

theorem mapNext_atPort_congr {o p : Host.Outcome State Fault Refusal} {q r s t : State} (hl : s.life = t.life)
    (hq : eraseGhost q = eraseGhost r) (ho : mapNext eraseGhost o = mapNext eraseGhost p) :
    mapNext eraseGhost (atPort q o s) = mapNext eraseGhost (atPort r p t) :=
  mapNext_ifReset_congr hl (map_ite_congr _ (by rw [hl]) (congrArg Host.Outcome.next hq) ho)

/-- A sequence reads no ghost state when neither part does. -/
theorem mapNext_andThen_congr {o p : Host.Outcome State Fault Refusal} {f g : State → Host.Outcome State Fault Refusal}
    (ho : mapNext eraseGhost o = mapNext eraseGhost p) (hf : SameButGhost f g) :
    mapNext eraseGhost (andThen o f) = mapNext eraseGhost (andThen p g) := by
  cases o <;> cases p <;> simp only [mapNext, Host.Outcome.next.injEq, reduceCtorEq] at ho
  case next.next s t => exact hf s t ho
  all_goals exact congrArg _ ho

theorem exec_sameButGhost (i : Instr) : SameButGhost (exec i) (exec i) := by
  refine sameButGhost_of_erase fun s => ?_
  cases i with
  | construct c =>
    change mapNext _ (execConstruct c s) = mapNext _ (execConstruct c (eraseGhost s))
    rw [execConstruct_eq, execConstruct_eq]
    exact map_ite_congr _ Iff.rfl (map_ite_congr _ Iff.rfl rfl rfl) rfl
  | reset => exact map_ite_congr _ Iff.rfl rfl rfl
  | push v =>
    refine map_ite_congr _ Iff.rfl (mapNext_atPort_congr rfl rfl ?_) rfl
    exact map_ite_congr (fun u => mapNext eraseGhost (.next (respondP (producerResponse true s) u))) Iff.rfl rfl rfl
  | pIdle => exact mapNext_atPort_congr rfl rfl rfl
  | pop =>
    refine mapNext_atPort_congr rfl rfl ?_
    exact map_ite_congr (fun u => mapNext eraseGhost (.next (respondC (consumerResponse true s) u))) Iff.rfl rfl rfl
  | cIdle => exact mapNext_atPort_congr rfl rfl rfl
  | syncTail d => exact mapNext_ifReset_congr rfl (map_ite_congr _ Iff.rfl rfl rfl)
  | syncHead d => exact mapNext_ifReset_congr rfl (map_ite_congr _ Iff.rfl rfl rfl)

theorem runCommand_sameButGhost (w : CommandWord) : SameButGhost (runCommand w) (runCommand w) := by
  refine sameButGhost_of_erase fun s => ?_
  simp only [runCommand, eraseGhost_dataW]
  split
  · exact exec_sameButGhost _ s (eraseGhost s) rfl
  · rfl

theorem clkCycle_sameButGhost (pc cc : Nat) : SameButGhost (clkCycle pc cc) (clkCycle pc cc) := by
  refine sameButGhost_of_erase fun s => ?_
  simp only [clkCycle, eraseGhost_crossing]
  split
  · refine mapNext_andThen_congr (runCommand_sameButGhost _ s (eraseGhost s) rfl) fun p p' hp => ?_
    refine mapNext_andThen_congr (runCommand_sameButGhost _ s (eraseGhost s) rfl) fun c c' hc => ?_
    change Host.Outcome.next (eraseGhost (mergeSides s (eraseGhost p) (eraseGhost c))) = _
    rw [hp, hc]
    rfl
  · rfl

theorem wclkEdge_sameButGhost (pc : Nat) (late : Bool) : SameButGhost (wclkEdge pc late) (wclkEdge pc late) := by
  refine sameButGhost_of_erase fun s => ?_
  simp only [wclkEdge, eraseGhost_crossing]
  split
  · rfl
  · refine mapNext_andThen_congr (runCommand_sameButGhost _ _ _ rfl) (sameButGhost_of_erase fun p => ?_)
    rw [eraseGhost_crossing]
    split <;> rfl

theorem rclkEdge_sameButGhost (cc : Nat) (late : Bool) : SameButGhost (rclkEdge cc late) (rclkEdge cc late) := by
  refine sameButGhost_of_erase fun s => ?_
  simp only [rclkEdge, eraseGhost_crossing]
  split
  · rfl
  · refine mapNext_andThen_congr (runCommand_sameButGhost _ _ _ rfl) (sameButGhost_of_erase fun c => ?_)
    rw [eraseGhost_crossing]
    split <;> rfl

theorem lowerReset_sameButGhost (p c : Instr) : SameButGhost (lowerReset p c) (lowerReset p c) := by
  refine sameButGhost_of_erase fun s => ?_
  simp only [lowerReset, eraseGhost_life]
  cases s.life
  case elaborating => rfl
  case inReset => rfl
  all_goals exact map_ite_congr _ Iff.rfl rfl rfl

theorem resetCycle_sameButGhost (pc cc : Nat) : SameButGhost (resetCycle pc cc) (resetCycle pc cc) := by
  refine sameButGhost_of_erase fun s => ?_
  simp only [resetCycle, eraseGhost_dataW]
  split
  · rfl
  · split
    · rfl
    · exact lowerReset_sameButGhost _ _ s (eraseGhost s) rfl

theorem raiseReset_sameButGhost : SameButGhost raiseReset raiseReset :=
  sameButGhost_of_erase fun _ => mapNext_ifReset_congr rfl rfl

theorem runInput_sameButGhost (x : Input) : SameButGhost (runInput x) (runInput x) := by
  cases x with
  | command w => exact runCommand_sameButGhost w
  | st d => exact exec_sameButGhost (.syncTail d)
  | sh d => exact exec_sameButGhost (.syncHead d)
  | clk pc cc => exact clkCycle_sameButGhost pc cc
  | wclk pc late => exact wclkEdge_sameButGhost pc late
  | rclk cc late => exact rclkEdge_sameButGhost cc late
  | resetLow pc cc => exact resetCycle_sameButGhost pc cc
  | resetHigh => exact raiseReset_sameButGhost

theorem step_sameButGhost : SameButGhost step step := by
  refine sameButGhost_of_erase fun s => ?_
  cases hi : s.inputs with
  | nil =>
    rw [step_nil hi, step_nil (s := eraseGhost s) hi]
    rfl
  | cons x rest =>
    rw [step_cons hi, step_cons (s := eraseGhost s) hi]
    exact runInput_sameButGhost x _ _ rfl

/-- Settles O42: no part of a step reads the ghost state (`step_sameButGhost`). -/
theorem ghostIsNeverRead : Obligations.GhostIsNeverRead := fun s g => step_sameButGhost { s with ghost := g } s rfl

end Sys2Proof.Machine
end

section
/-! SUPPORT. The statements that read single states: the reset state, the form `SYNC`, the register numbers. -/

namespace Sys2Proof.Machine

open Sys2Proof.Safety

/-- Settles O10: the fields are those of `State.resetOf`, and the views and flags follow from the invariant at reset. -/
theorem resetStateIsAsSpecified : Obligations.ResetStateIsAsSpecified := by
  refine ⟨rfl, by decide, fun p hp => ?_⟩
  have h := blockInv_resetOf hp
  have hfull : full (State.resetOf p) = false := by
    have hpos := h.depth_pos
    rw [Bool.eq_false_iff, ne_eq, h.full_iff]
    change ¬ 0 = 0 + _
    omega
  have hempty : empty (State.resetOf p) = true := h.empty_iff.2 rfl
  refine ⟨rfl, rfl, rfl, rfl, rfl, h.tailPIsTP, h.headCIsHC, fun _ => rfl, fun r hr => ?_, rfl, rfl, hfull, hempty,
    rfl, rfl, region_eq_empty_iff.2 h.fill_eq⟩
  obtain ⟨depth, dataW, clocking, stages, lineBytes⟩ := p
  cases clocking <;> cases hr
  exact ⟨rfl, rfl, rfl, rfl⟩

/-- Settles O29: in `SYNC` a view is its cursor by definition, so the bound on `d` is 0. -/
theorem syncFormViewsAreCursors : Obligations.SyncFormViewsAreCursors := by
  intro s hx
  have htail : tailP s = s.tail := by simp only [tailP, hx]
  have hhead : headC s = s.head := by simp only [headC, hx]
  have htailLag : tailLag s = 0 := by rw [tailLag, htail, BitVec.sub_self]; rfl
  have hheadLag : headLag s = 0 := by rw [headLag, hhead, BitVec.sub_self]; rfl
  refine ⟨htail, hhead, fun hl => ⟨?_, ?_, fun d => ⟨?_, ?_⟩⟩, ?_, ?_⟩
  · refine execSyncTail_eq_next.2 ⟨hl, Nat.zero_le _, ?_⟩
    simp only [advanceTailP, hx, Crossing.moveTailP]
    simp [← hx]
  · refine execSyncHead_eq_next.2 ⟨hl, Nat.zero_le _, ?_⟩
    simp only [advanceHeadC, hx, Crossing.moveHeadC]
    simp [← hx]
  · exact (ifReset_of_reset hl).trans (if_neg (by omega))
  · exact (ifReset_of_reset hl).trans (if_neg (by omega))
  · rw [full, htail, decide_eq_true_eq]
  · rw [empty, hhead, decide_eq_true_eq]

/-- The stages of `ts` and then those of `hs`, from number 8 on (R40). -/
theorem readRegister_stage {s : State} {r : AsyncRegs} (h : s.crossing = .async r) (j : Nat) :
    readRegister (8 + j) s = (r.ts ++ r.hs)[j]? := by
  rw [Nat.add_comm]
  simp only [readRegister, h]

theorem readRegister_sync {s : State} (h : s.crossing = .sync) {i : Nat} (hi : 6 ≤ i) : readRegister i s = none := by
  obtain ⟨j, rfl⟩ := Nat.exists_eq_add_of_le' hi
  match j with
  | 0 => simp only [readRegister, h]
  | 1 => simp only [readRegister, h]
  | j + 2 => simp only [readRegister, h]

/-- Settles O59: the table of R40, the stages by their place in the two chains. -/
theorem registerNumbers : Obligations.RegisterNumbers := by
  intro s
  refine ⟨rfl, rfl, rfl, rfl, rfl, rfl, fun hx i => readRegister_sync hx, fun r hr => ⟨?_, ?_, fun j hj => ?_, fun j => ?_⟩⟩
  · simp only [readRegister, hr]
  · simp only [readRegister, hr]
  · rw [readRegister_stage hr, List.getElem?_append_left hj]
  · rw [Nat.add_assoc, readRegister_stage hr, List.getElem?_append_right (Nat.le_add_right _ _), Nat.add_sub_cancel_left]

end Sys2Proof.Machine
end

section
/-! SUPPORT. The form `SYNC` as steps of the abstract machine (R76, R189): an operation does the same from two states that
the abstract machine cannot tell apart, up to the views, which a synchronising step of at most 1 each brings forward. -/

namespace Sys2Proof.Safety

open Sys2Proof.Machine

/-- What the abstract machine stores beside the views, which under the invariant are functions of the ghost counts (R33). -/
def stored (s : State) : Abstract := { abstract s with tailP := 0, headC := 0 }

/-- A state that meets the invariant shows the views its counts stand for (R33). -/
theorem BlockInv.abstract_eq {s : State} (h : BlockInv s) :
    abstract s = { stored s with tailP := BitVec.ofNat 64 (stored s).ghost.tp
                                 headC := BitVec.ofNat 64 (stored s).ghost.hc } := by
  simp only [abstract, h.tailPIsTP, h.headCIsHC]
  rfl

theorem abstract_eq_of_stored_eq {s t : State} (hs : BlockInv s) (ht : BlockInv t) (h : stored s = stored t) :
    abstract s = abstract t := by
  rw [hs.abstract_eq, ht.abstract_eq, h]

/-- States that look alike to the abstract machine differ in the crossing and in the inputs to come alone (R28). -/
theorem eq_of_abstract_eq {a s : State} (h : abstract a = abstract s) :
    a = { s with crossing := a.crossing, inputs := a.inputs } := by
  cases a
  cases s
  simp only [abstract, Abstract.mk.injEq] at h
  simp [h]

/-- Where a state differs from another in the views alone, synchronising steps of that difference lead to a state that
looks like the other: the other's invariant bounds them (R185, R186). -/
theorem syncSteps_reach {a t : State} {d e : Nat} (ha : BlockInv a) (ht : BlockInv t)
    (hl : a.life = .inReset ∨ a.life = .running) (h : stored (advanceHeadC e (advanceTailP d a)) = stored t) :
    ∃ a2 a3, exec (.syncTail d) a = .next a2 ∧ exec (.syncHead e) a2 = .next a3 ∧ abstract a3 = abstract t := by
  have hg : { a.ghost with tp := a.ghost.tp + d, hc := a.ghost.hc + e } = t.ghost := congrArg Abstract.ghost h
  have htp := ht.tpLePopped
  have hhc := ht.hcLePushed
  rw [← hg] at htp hhc
  have hd : d ≤ tailLag a := by rw [ha.tailLag_eq]; exact Nat.le_sub_of_add_le' htp
  have ha2 := ha.tailP_advanced hd
  have he : e ≤ headLag (advanceTailP d a) := by rw [ha2.headLag_eq]; exact Nat.le_sub_of_add_le' hhc
  exact ⟨_, _, execSyncTail_eq_next.2 ⟨hl, hd, rfl⟩, execSyncHead_eq_next.2 ⟨hl, he, rfl⟩,
    abstract_eq_of_stored_eq (ha2.headC_advanced he) ht h⟩

/-- What an operation of `SYNC` does, it does to an `ASYNC` state that looks the same, which is left at most one step of
each synchronising agent behind (R189). -/
def FollowedBy (i : Instr) (a t : State) : Prop :=
  ∃ d e a1, d ≤ 1 ∧ e ≤ 1 ∧ exec i a = .next a1 ∧ (a1.life = .inReset ∨ a1.life = .running) ∧
    stored (advanceHeadC e (advanceTailP d a1)) = stored t

section simulation
variable {i : Instr} {s a t : State} {r : AsyncRegs}

/-- An operation that leaves both forms with the same counts needs no synchronising step. -/
theorem followedBy_of_stored_eq {a1 : State} (e : exec i a = .next a1) (hl : a1.life = .inReset ∨ a1.life = .running)
    (h : stored a1 = stored t) : FollowedBy i a t :=
  ⟨0, 0, a1, Nat.zero_le _, Nat.zero_le _, e, hl, h⟩

variable (h : abstract a = abstract s)
include h

theorem stored_eq_of_abstract_eq : stored a = stored s := congrArg (fun x => { x with tailP := 0, headC := 0 }) h

theorem life_eq_of_abstract_eq : a.life = s.life := congrArg Abstract.life h

theorem stored_respondP_congr (p : PResponse) : stored (respondP p a) = stored (respondP p s) :=
  congrArg (fun x => { x with pOut := p }) (stored_eq_of_abstract_eq h)

theorem stored_respondC_congr (c : CResponse) : stored (respondC c a) = stored (respondC c s) :=
  congrArg (fun x => { x with cOut := c }) (stored_eq_of_abstract_eq h)

/-- A push of `SYNC` moves `HC` too, as a step of `SH` after it does in `ASYNC` (R189). -/
theorem stored_enqueue_async (hs : s.crossing = .sync) (ha : a.crossing = .async r) (v : Slot)
    (p : PResponse) : stored (advanceHeadC 1 (advanceTailP 0 (respondP p (enqueue v a)))) =
      stored (respondP p (enqueue v s)) := by
  rw [eq_of_abstract_eq h, ha]
  cases s
  cases hs
  rfl

/-- A pop of `SYNC` moves `TP` too, as a step of `ST` after it does in `ASYNC` (R189). -/
theorem stored_dequeue_async (hs : s.crossing = .sync) (ha : a.crossing = .async r) (c : CResponse) :
    stored (advanceHeadC 0 (advanceTailP 1 (respondC c (dequeue a)))) = stored (respondC c (dequeue s)) := by
  rw [eq_of_abstract_eq h, ha]
  cases s
  cases hs
  rfl

/-- The producer sees the same in both states, so it answers the same (R261). -/
theorem followedBy_of_producer (hs : s.crossing = .sync) (ha : a.crossing = .async r) (hi : i.agent = .producer)
    (e : exec i s = .next t) : FollowedBy i a t := by
  have hlife := life_eq_of_abstract_eq h
  have hfull : full a = full s := congrArg (fun x : Abstract => decide (x.head - x.tailP = x.capacity)) h
  have hw : a.dataW = s.dataW := congrArg Abstract.dataW h
  cases i with
  | push v =>
    have e := execPush_eq_next.1 e
    rw [← hlife, ← hfull, ← hw] at e
    obtain ⟨hv, ⟨hl, rfl⟩ | ⟨hl, ⟨hf, rfl⟩ | ⟨hf, rfl⟩⟩⟩ := e
    · exact followedBy_of_stored_eq (execPush_eq_next.2 ⟨hv, .inl ⟨hl, rfl⟩⟩) (.inl hl) (stored_respondP_congr h _)
    · exact followedBy_of_stored_eq (execPush_eq_next.2 ⟨hv, .inr ⟨hl, .inl ⟨hf, rfl⟩⟩⟩) (.inr hl)
        (stored_respondP_congr h _)
    · exact ⟨0, 1, _, Nat.zero_le _, le_rfl, execPush_eq_next.2 ⟨hv, .inr ⟨hl, .inr ⟨hf, rfl⟩⟩⟩, .inr hl,
        stored_enqueue_async h hs ha v _⟩
  | pIdle =>
    have e := execPIdle_eq_next.1 e
    rw [← hlife, ← hfull] at e
    obtain ⟨hl, rfl⟩ | ⟨hl, rfl⟩ := e
    · exact followedBy_of_stored_eq (execPIdle_eq_next.2 (.inl ⟨hl, rfl⟩)) (.inl hl) (stored_respondP_congr h _)
    · exact followedBy_of_stored_eq (execPIdle_eq_next.2 (.inr ⟨hl, rfl⟩)) (.inr hl) (stored_respondP_congr h _)
  | _ => cases hi

/-- The consumer sees the same in both states, so it answers the same (R261). -/
theorem followedBy_of_consumer (hs : s.crossing = .sync) (ha : a.crossing = .async r) (hi : i.agent = .consumer)
    (e : exec i s = .next t) : FollowedBy i a t := by
  have hlife := life_eq_of_abstract_eq h
  have hempty : empty a = empty s := congrArg (fun x : Abstract => decide (x.headC = x.tail)) h
  have hread : memRead (readIndex a) a = memRead (readIndex s) s :=
    congrArg (fun x : Abstract => Memory.read x.storage (slotIndex x.tail x.indexMask)) h
  cases i with
  | pop =>
    have e := execPop_eq_next.1 e
    rw [← hlife, ← hempty, ← hread] at e
    obtain ⟨hl, rfl⟩ | ⟨hl, ⟨he, rfl⟩ | ⟨he, rfl⟩⟩ := e
    · exact followedBy_of_stored_eq (execPop_eq_next.2 (.inl ⟨hl, rfl⟩)) (.inl hl) (stored_respondC_congr h _)
    · exact followedBy_of_stored_eq (execPop_eq_next.2 (.inr ⟨hl, .inl ⟨he, rfl⟩⟩)) (.inr hl)
        (stored_respondC_congr h _)
    · exact ⟨1, 0, _, le_rfl, Nat.zero_le _, execPop_eq_next.2 (.inr ⟨hl, .inr ⟨he, rfl⟩⟩), .inr hl,
        stored_dequeue_async h hs ha _⟩
  | cIdle =>
    have e := execCIdle_eq_next.1 e
    rw [← hlife, ← hempty] at e
    obtain ⟨hl, rfl⟩ | ⟨hl, rfl⟩ := e
    · exact followedBy_of_stored_eq (execCIdle_eq_next.2 (.inl ⟨hl, rfl⟩)) (.inl hl) (stored_respondC_congr h _)
    · exact followedBy_of_stored_eq (execCIdle_eq_next.2 (.inr ⟨hl, rfl⟩)) (.inr hl) (stored_respondC_congr h _)
  | _ => cases hi

/-- A successful push and a successful pop need one synchronising step; everything else moves no view that the same
operation of `ASYNC` does not move alike (R189). -/
theorem followedBy_of_exec (hinv : BlockInv s) (hs : s.crossing = .sync) (ha : a.crossing = .async r)
    (e : exec i s = .next t) : FollowedBy i a t := by
  have hlife := life_eq_of_abstract_eq h
  have hst := stored_eq_of_abstract_eq h
  cases i with
  | construct c => exact absurd (execConstruct_eq_next.1 e).1 hinv.instanceExists
  | reset =>
    obtain ⟨hl, rfl⟩ := execReset_eq_next.1 e
    refine followedBy_of_stored_eq (execReset_eq_next.2 ⟨hlife ▸ hl, rfl⟩) (.inr rfl) ?_
    rw [eq_of_abstract_eq h]
    rfl
  | syncTail d =>
    have hlag : tailLag a = tailLag s := congrArg (fun x : Abstract => (x.tail - x.tailP).toNat) h
    obtain ⟨hl, hd, rfl⟩ := execSyncTail_eq_next.1 e
    rw [← hlag] at hd
    rw [← hlife] at hl
    exact followedBy_of_stored_eq (execSyncTail_eq_next.2 ⟨hl, hd, rfl⟩) hl
      (congrArg (fun x => { x with ghost := { x.ghost with tp := x.ghost.tp + d } }) hst)
  | syncHead d =>
    have hlag : headLag a = headLag s := congrArg (fun x : Abstract => (x.head - x.headC).toNat) h
    obtain ⟨hl, hd, rfl⟩ := execSyncHead_eq_next.1 e
    rw [← hlag] at hd
    rw [← hlife] at hl
    exact followedBy_of_stored_eq (execSyncHead_eq_next.2 ⟨hl, hd, rfl⟩) hl
      (congrArg (fun x => { x with ghost := { x.ghost with hc := x.ghost.hc + d } }) hst)
  | push v => exact followedBy_of_producer h hs ha rfl e
  | pIdle => exact followedBy_of_producer h hs ha rfl e
  | pop => exact followedBy_of_consumer h hs ha rfl e
  | cIdle => exact followedBy_of_consumer h hs ha rfl e

end simulation

/-- Settles O46: the operation leaves the `ASYNC` state behind in the views alone (`followedBy_of_exec`), and the
synchronising steps bring those forward (`syncSteps_reach`). -/
theorem syncFormIsAbstractMachine : Obligations.SyncFormIsAbstractMachine := by
  intro i s a t r hs ha hx hr h e
  obtain ⟨d, e', a1, hd, he, ea, hl, hst⟩ := followedBy_of_exec h hs hx hr e
  obtain ⟨a2, a3, e2, e3, h3⟩ := syncSteps_reach (ha.exec ea) (hs.exec e) hl hst
  exact ⟨d, e', a1, a2, a3, hd, he, ea, e2, e3, h3⟩

end Sys2Proof.Safety
end

section
/-! SUPPORT. The handoff of slots (R69, R71 to R73) and the progress of the views: no step but a reset takes a count back,
so a view that keeps moving passes every published cursor (R74, R75). -/

namespace Sys2Proof.Safety

open Sys2Proof.Machine

/-! ## The handoff of a slot -/

/-- Settles O36: the queue's slots are the invariant's, what was popped is what was pushed first, and a push with
room meets no queued slot (`BlockInv.mod_ne_writeIndex`). -/
theorem slotHandoffIsOrdered : Obligations.SlotHandoffIsOrdered := by
  intro s h
  refine ⟨fun k h1 h2 => h.slotsHoldQueue k h1 (h2.trans h.hcLePushed), h.lt_of_not_empty, fun k hk => ?_,
    fun hf k => h.mod_ne_writeIndex hf⟩
  have hpop : k < s.ghost.popped := hk.trans h.tpLePopped
  have hins : k < s.ghost.ins.length := h.insLength ▸ hpop.trans_le (h.poppedLeHC.trans h.hcLePushed)
  refine ⟨hpop, s.ghost.ins[k], ?_, List.getElem?_eq_getElem hins⟩
  rw [h.outsAreIns, List.getElem?_take_of_lt hpop, List.getElem?_eq_getElem hins]

/-- Settles O37: the slot a pop reads is a queued one, which a push with room does not write
(`BlockInv.mod_ne_writeIndex`). -/
theorem writeAndReadSlotsDiffer : Obligations.WriteAndReadSlotsDiffer := by
  intro s h hf he
  rw [h.readIndex_eq]
  exact (h.mod_ne_writeIndex hf le_rfl ((h.lt_of_not_empty he).trans_le h.hcLePushed)).symm

/-! ## The counts only grow -/

/-- No ghost count goes back (R33, R74). -/
structure CountsGrow (s t : State) : Prop where
  pushed : s.ghost.pushed ≤ t.ghost.pushed
  popped : s.ghost.popped ≤ t.ghost.popped
  hc : s.ghost.hc ≤ t.ghost.hc
  tp : s.ghost.tp ≤ t.ghost.tp

section grow
variable {i : Instr} {s t : State}

theorem producerStep_countsGrow (h : ProducerStep s i t) : CountsGrow s t := by
  cases h with
  | responds => exact ⟨le_rfl, le_rfl, le_rfl, le_rfl⟩
  | enqueues => exact ⟨Nat.le_add_right _ _, le_rfl, Nat.le_add_right _ _, le_rfl⟩

theorem consumerStep_countsGrow (h : ConsumerStep s i t) : CountsGrow s t := by
  cases h with
  | responds => exact ⟨le_rfl, le_rfl, le_rfl, le_rfl⟩
  | dequeues => exact ⟨le_rfl, Nat.le_add_right _ _, le_rfl, Nat.le_add_right _ _⟩

theorem exec_countsGrow (hi : i.agent ≠ .environment) (e : exec i s = .next t) : CountsGrow s t := by
  cases hagent : i.agent with
  | producer => exact producerStep_countsGrow (producerStep_of_exec hagent e)
  | consumer => exact consumerStep_countsGrow (consumerStep_of_exec hagent e)
  | st =>
    obtain ⟨d, rfl⟩ := eq_syncTail_of_agent hagent
    obtain ⟨-, -, rfl⟩ := execSyncTail_eq_next.1 e
    exact ⟨le_rfl, le_rfl, le_rfl, Nat.le_add_right _ _⟩
  | sh =>
    obtain ⟨d, rfl⟩ := eq_syncHead_of_agent hagent
    obtain ⟨-, -, rfl⟩ := execSyncHead_eq_next.1 e
    exact ⟨le_rfl, le_rfl, Nat.le_add_right _ _, le_rfl⟩
  | environment => exact absurd hagent hi

theorem runInput_countsGrow {x : Input} (hx : environmentInput s.dataW x = false) (e : runInput x s = .next t) :
    CountsGrow s t := by
  cases x with
  | command w =>
    obtain ⟨i, hi, e⟩ := runCommand_eq_next.1 e
    exact exec_countsGrow (by simpa [environmentInput, hi] using hx) e
  | st d => exact exec_countsGrow (i := .syncTail d) nofun e
  | sh d => exact exec_countsGrow (i := .syncHead d) nofun e
  | clk pc cc =>
    obtain ⟨-, -, -, p, c, hp, hc, rfl⟩ := clkCycle_eq_next.1 e
    have hp := producerStep_countsGrow (producerStep_of_exec (agent_decodePC _ _) hp)
    have hc := consumerStep_countsGrow (consumerStep_of_exec (agent_decodeCC _) hc)
    exact ⟨hp.pushed, hc.popped, hp.hc, hc.tp⟩
  | wclk pc late =>
    obtain ⟨-, r, p, r', -, hp, -, rfl⟩ := wclkEdge_eq_next.1 e
    have h := producerStep_countsGrow (producerStep_of_exec (agent_decodePC _ _) hp)
    exact ⟨h.pushed, h.popped, h.hc, h.tp.trans (Nat.le_add_right _ _)⟩
  | rclk cc late =>
    obtain ⟨-, r, c, r', -, hc, -, rfl⟩ := rclkEdge_eq_next.1 e
    have h := consumerStep_countsGrow (consumerStep_of_exec (agent_decodeCC _) hc)
    exact ⟨h.pushed, h.popped, h.hc.trans (Nat.le_add_right _ _), h.tp⟩
  | resetLow => cases hx
  | resetHigh => cases hx

end grow

/-- Settles O40: the counts of the views grow (`runInput_countsGrow`), and the invariant, which the step keeps, ties the
registers to them and bounds them by the cursors. -/
theorem viewsNeverGoBack : Obligations.ViewsNeverGoBack := by
  intro s t x rest h hs hx e
  have ht := h.step e
  rw [step_cons hs] at e
  have hgrow := runInput_countsGrow (s := withInputs rest s) hx e
  obtain ⟨d, hd⟩ := Nat.exists_eq_add_of_le hgrow.tp
  obtain ⟨k, hk⟩ := Nat.exists_eq_add_of_le hgrow.hc
  refine ⟨d, k, hd, ?_, ht.tpLePopped, hk, ?_, ht.hcLePushed⟩
  · rw [ht.tailPIsTP, h.tailPIsTP, hd, BitVec.ofNat_add]
    rfl
  · rw [ht.headCIsHC, h.headCIsHC, hk, BitVec.ofNat_add]
    rfl

/-! ## Fair executions -/

/-- A count that never goes back, and moves again as long as it differs from another that never goes back, reaches every
value of the other. -/
theorem eventually_reaches {view cursor : Nat → Nat} (hview : Monotone view) (hcursor : Monotone cursor)
    (hfair : ∀ n, (∀ m, n ≤ m → view m ≠ cursor m) → ∃ m, n ≤ m ∧ view m < view (m + 1)) (n : Nat) :
    ∃ m, n ≤ m ∧ cursor n ≤ view m := by
  by_contra hnever
  have hbehind : ∀ m, n ≤ m → view m < cursor n := by simpa using hnever
  have hunbounded : ∀ k, ∃ m, n ≤ m ∧ k ≤ view m := by
    intro k
    induction k with
    | zero => exact ⟨n, le_rfl, Nat.zero_le _⟩
    | succ k ih =>
      obtain ⟨m, hnm, hk⟩ := ih
      obtain ⟨m', hm, hmove⟩ := hfair m fun j hj =>
        ((hbehind j (hnm.trans hj)).trans_le (hcursor (hnm.trans hj))).ne
      exact ⟨m' + 1, by omega, Nat.lt_of_le_of_lt (hk.trans (hview hm)) hmove⟩
  obtain ⟨m, hnm, hk⟩ := hunbounded (cursor n)
  exact absurd (hbehind m hnm) (not_lt.2 hk)

section execution
variable {run : Nat → State} (hrun : Execution run)
include hrun

theorem Execution.countsGrow (n : Nat) : CountsGrow (run n) (run (n + 1)) := by
  obtain ⟨i, hi, e⟩ := hrun n
  exact exec_countsGrow hi e

theorem Execution.blockInv (h : BlockInv (run 0)) (n : Nat) : BlockInv (run n) := by
  induction n with
  | zero => exact h
  | succ n ih =>
    obtain ⟨i, -, e⟩ := hrun n
    exact ih.exec e

end execution

/-- Settles O58: under the invariant a view that differs from its cursor has a count that differs from the cursor's, so
fairness moves it on (`eventually_reaches`). -/
theorem publishedCursorsAreEventuallySeen : Obligations.PublishedCursorsAreEventuallySeen := by
  intro run h0 hrun
  have hinv := hrun.blockInv h0
  have hgrow := hrun.countsGrow
  refine ⟨fun hfair => ?_, fun hfair => ?_⟩
  · refine eventually_reaches (view := fun n => (run n).ghost.tp) (cursor := fun n => (run n).ghost.popped)
      (monotone_nat_of_le_succ fun n => (hgrow n).tp) (monotone_nat_of_le_succ fun n => (hgrow n).popped) fun n hn => ?_
    obtain ⟨m, d, hm, hd, e⟩ := hfair n fun m hm => (hinv m).tailP_eq_tail_iff.not.2 (hn m hm)
    obtain ⟨-, -, ht⟩ := execSyncTail_eq_next.1 e
    exact ⟨m, hm, ht ▸ Nat.lt_add_of_pos_right hd⟩
  · refine eventually_reaches (view := fun n => (run n).ghost.hc) (cursor := fun n => (run n).ghost.pushed)
      (monotone_nat_of_le_succ fun n => (hgrow n).hc) (monotone_nat_of_le_succ fun n => (hgrow n).pushed) fun n hn => ?_
    obtain ⟨m, d, hm, hd, e⟩ := hfair n fun m hm => (hinv m).headC_eq_head_iff.not.2 (hn m hm)
    obtain ⟨-, -, ht⟩ := execSyncHead_eq_next.1 e
    exact ⟨m, hm, ht ▸ Nat.lt_add_of_pos_right hd⟩

end Sys2Proof.Safety
end

section
/-! SUPPORT. The state image of R66: its three lines of registers, the padding between them, and the slots. -/

namespace Sys2Proof.Machine

/-- A byte of a register's value is eight of its bits (R63). -/
theorem leByte_toNat (w : Word) (k : Nat) : leByte w.toNat k = w.extractLsb' (8 * k) 8 := rfl

/-- A byte of a slot's value as a digit of base 256 (R63). -/
theorem leByte_eq_digit (v : Slot) (k : Nat) : leByte v k = BitVec.ofNat 8 (v / 2 ^ (8 * k) % 256) := by
  rw [leByte, Nat.shiftRight_eq_div_pow]
  exact BitVec.eq_of_toNat_eq (by simp)

section image
variable {line : Nat} (s : State)

/-- The two registers of each of the first three lines. -/
theorem imageByte_registers (hl : 16 ≤ line) {k : Nat} (hk : k < 8) :
    imageByte line k s = some (leByte s.head.toNat k) ∧
    imageByte line (8 + k) s = some (leByte (tailP s).toNat k) ∧
    imageByte line (line + k) s = some (leByte s.tail.toNat k) ∧
    imageByte line (line + 8 + k) s = some (leByte (headC s).toNat k) ∧
    imageByte line (2 * line + k) s = some (leByte s.capacity.toNat k) ∧
    imageByte line (2 * line + 8 + k) s = some (leByte s.indexMask.toNat k) := by
  refine ⟨?_, ?_, ?_, ?_, ?_, ?_⟩ <;>
    simp (disch := omega) only [imageByte, imageLength, if_pos, if_neg, Nat.add_assoc, Nat.add_sub_cancel_left,
      Nat.add_sub_add_left]

/-- What stands in a line after its two registers is padding. -/
theorem imageByte_padding (hl : 16 ≤ line) {off : Nat} (h16 : 16 ≤ off % line) (hoff : off < 3 * line) :
    imageByte line off s = some 0 := by
  have hmod := Nat.mod_add_div off line
  have hline : off / line < 3 := Nat.div_lt_of_lt_mul (by omega)
  have hlt := Nat.mod_lt off (by omega : 0 < line)
  interval_cases hq : off / line <;>
    simp (disch := omega) only [imageByte, imageLength, if_pos, if_neg]

/-- The slots follow one another after the three lines. -/
theorem imageByte_slot (hl : 16 ≤ line) {i k : Nat} (hi : i < depth s) (hk : k < slotBytes s) :
    imageByte line (3 * line + i * slotBytes s + k) s = some (leByte (memRead i s) k) := by
  have hend : i * slotBytes s + k < depth s * slotBytes s :=
    calc i * slotBytes s + k < (i + 1) * slotBytes s := by rw [Nat.succ_mul]; omega
      _ ≤ depth s * slotBytes s := Nat.mul_le_mul_right _ hi
  have hdiv : (i * slotBytes s + k) / slotBytes s = i := by
    rw [Nat.mul_comm, Nat.mul_add_div (by omega), Nat.div_eq_of_lt hk, Nat.add_zero]
  have hmod : (i * slotBytes s + k) % slotBytes s = k := by
    rw [Nat.mul_comm, Nat.mul_add_mod, Nat.mod_eq_of_lt hk]
  rw [Nat.add_assoc]
  simp (disch := omega) only [imageByte, imageLength, if_pos, if_neg, Nat.add_sub_cancel_left, hdiv, hmod]

theorem imageByte_past_end {off : Nat} (h : imageLength line s ≤ off) : imageByte line off s = none :=
  if_neg (not_lt.2 h)

end image

/-- Settles O60: the registers (`imageByte_registers`), the slots (`imageByte_slot`), the padding (`imageByte_padding`) and
nothing past the end. -/
theorem stateImageLayout : Obligations.StateImageLayout := by
  intro line s hl
  refine ⟨fun k hk => imageByte_registers s hl hk, fun i k hi hk => ?_, fun off => imageByte_padding s hl,
    fun off => imageByte_past_end s⟩
  rw [← leByte_eq_digit]
  exact imageByte_slot s hl hi hk

end Sys2Proof.Machine
end

section
/-! SUPPORT. The decoder and the encoder port by port (R93, R95, R97, R99, R100), and that each undoes the other. -/

namespace Sys2Proof

/-! ## The decoder -/

/-- A word that fits format `K` is the capacity of a `CONSTRUCT` (R97). -/
theorem decode_k {w : Nat} (dw : Nat) (h : w < 2 ^ Format.width dw .k) :
    decode dw ⟨.k, w⟩ = .ok (.construct (BitVec.ofNat 64 w)) := if_pos h

theorem decode_pc {dw w : Nat} (h : w < 2 ^ Format.width dw .pc) : decode dw ⟨.pc, w⟩ = .ok (decodePC dw w) :=
  if_pos h

theorem decode_cc {w : Nat} (dw : Nat) (h : w < 2 ^ Format.width dw .cc) : decode dw ⟨.cc, w⟩ = .ok (decodeCC w) :=
  if_pos h

theorem decode_tooWide {dw : Nat} {w : CommandWord} (h : 2 ^ w.format.width dw ≤ w.bits) :
    decode dw w = .error .tooWide := if_neg (not_lt.2 h)

/-- The reset input at 1 selects nothing (R99). -/
theorem decode_rs_one (dw : Nat) : decode dw ⟨.rs, 1⟩ = .error .resetNotAsserted := rfl

/-- No port has the format `none` (R100). -/
theorem decode_none_zero (dw : Nat) : decode dw ⟨.none, 0⟩ = .error .noEncoding := rfl

/-- `push_req` at 1 over a value that fits is a `PUSH` of that value (R93). -/
theorem decodePC_request {dw v : Nat} (h : v < 2 ^ dw) : decodePC dw (2 ^ dw + v) = .push v := by
  have hreq : (2 ^ dw + v).testBit dw = true := by rw [Nat.testBit_two_pow_add_eq, Nat.testBit_lt_two_pow h]; rfl
  rw [decodePC, if_pos hreq, Nat.add_mod_left, Nat.mod_eq_of_lt h]

/-- `push_req` at 0 is a `P_IDLE`, whatever `wr_data` shows (R93). -/
theorem decodePC_idle {dw w : Nat} (h : w < 2 ^ dw) : decodePC dw w = .pIdle := by
  rw [decodePC, if_neg (by rw [Nat.testBit_lt_two_pow h]; decide)]

/-- A word that fits format `PC` is `wr_data` alone, or `push_req` over it (R93). -/
theorem fitsPC_cases {dw w : Nat} (h : w < 2 ^ Format.width dw .pc) :
    w < 2 ^ dw ∨ ∃ v, v < 2 ^ dw ∧ w = 2 ^ dw + v := by
  have h : w < 2 * 2 ^ dw := by rwa [Format.width, Nat.pow_add] at h
  rcases lt_or_ge w (2 ^ dw) with hlt | hge
  · exact .inl hlt
  · exact .inr ⟨w - 2 ^ dw, by omega, by omega⟩

/-- The word of format `CC` is its one bit (R95). -/
theorem fitsCC_cases {dw w : Nat} (h : w < 2 ^ Format.width dw .cc) : w = 0 ∨ w = 1 := by
  have h : w < 2 := h
  omega

/-! ## The encoder -/

/-- The word of every well-formed operation that has one fits its format. -/
theorem encode_fits (i : Instr) : Laws.EncodeWidth.Statement i := by
  cases i with
  | construct c => exact Laws.EncodeWidth.construct c
  | reset => exact Laws.EncodeWidth.reset
  | push v => exact Laws.EncodeWidth.push v
  | pIdle => exact Laws.EncodeWidth.pIdle
  | pop => exact Laws.EncodeWidth.pop
  | cIdle => exact Laws.EncodeWidth.cIdle
  | syncTail d => exact Laws.EncodeWidth.syncTail d
  | syncHead d => exact Laws.EncodeWidth.syncHead d

section encode
variable {dw : Nat} {i : Instr} {w : CommandWord}

/-- Every word is one of a port, of the elaboration or of the reset input (R100). -/
theorem encode_format_ne_none (h : encode dw i = some w) : w.format ≠ .none := by
  cases i <;> cases h <;> nofun

theorem encode_wf (hi : i.wf dw = true) (h : encode dw i = some w) : w.wf dw = true := by
  rw [CommandWord.wf, Bool.and_eq_true, decide_eq_true_eq, decide_eq_true_eq]
  exact ⟨encode_format_ne_none h, encode_fits i dw w hi h⟩

theorem encode_eq_none_iff : encode dw i = none ↔ i.agent = .st ∨ i.agent = .sh := by
  cases i <;> simp [encode, Instr.agent]

/-- Decoding undoes encoding, operand and all. -/
theorem decode_encode (hi : i.wf dw = true) (h : encode dw i = some w) : decode dw w = .ok i := by
  have hfits := encode_fits i dw w hi h
  cases i with
  | construct c =>
    cases h
    rw [decode_k dw hfits, BitVec.ofNat_toNat, BitVec.setWidth_eq]
  | reset => cases h; rfl
  | push v =>
    cases h
    rw [decode_pc hfits, decodePC_request (of_decide_eq_true hi)]
  | pIdle =>
    cases h
    rw [decode_pc hfits, decodePC_idle (Nat.two_pow_pos dw)]
  | pop => cases h; rfl
  | cIdle => cases h; rfl
  | syncTail d => cases h
  | syncHead d => cases h

/-- A producer word that is no idle one is the operation's own. -/
theorem encode_decodePC {w : Nat} (h : w < 2 ^ Format.width dw .pc) (hne : decodePC dw w ≠ .pIdle) :
    encode dw (decodePC dw w) = some ⟨.pc, w⟩ := by
  obtain hlt | ⟨v, hv, rfl⟩ := fitsPC_cases h
  · exact absurd (decodePC_idle hlt) hne
  · rw [decodePC_request hv, encode]

theorem encode_decodeCC {w : Nat} (h : w < 2 ^ Format.width dw .cc) : encode dw (decodeCC w) = some ⟨.cc, w⟩ := by
  obtain rfl | rfl := fitsCC_cases h <;> rfl

end encode

theorem decodePC_wf (dw w : Nat) : (decodePC dw w).wf dw = true := by
  obtain ⟨v, hv, e⟩ | e := Machine.decodePC_cases dw w <;> rw [e]
  · exact decide_eq_true hv
  · rfl

theorem decodeCC_wf (dw w : Nat) : (decodeCC w).wf dw = true := by
  obtain e | e := Machine.decodeCC_cases w <;> rw [e] <;> rfl

/-- Settles O2: the word of a well-formed operation is well formed (`encode_wf`) and decodes back (`decode_encode`). -/
theorem encodedInstructionDecodesBack : Obligations.EncodedInstructionDecodesBack :=
  fun _ _ hi => ⟨fun _ h => ⟨encode_wf hi h, decode_encode hi h⟩, encode_eq_none_iff⟩

/-- Settles O3, format by format: one word of the reset input is left, and the words of format `PC` with `push_req` at 0
are the idle ones. -/
theorem everyFittingWordIsACommand : Obligations.EveryFittingWordIsACommand := by
  rintro dw ⟨format, bits⟩ hwf hne
  rw [CommandWord.wf, Bool.and_eq_true, decide_eq_true_eq, decide_eq_true_eq] at hwf
  obtain ⟨hport, hfits⟩ := hwf
  cases format with
  | k =>
    have hword : (BitVec.ofNat 64 bits).toNat = bits := Nat.mod_eq_of_lt hfits
    exact ⟨_, decode_k dw hfits, rfl, nofun, nofun, fun _ => by rw [encode, hword]⟩
  | rs =>
    have hbits : bits < 2 := hfits
    obtain rfl : bits = 0 := by
      have : bits ≠ 1 := fun e => hne (e ▸ rfl)
      omega
    exact ⟨.reset, rfl, rfl, nofun, nofun, fun _ => rfl⟩
  | pc =>
    refine ⟨_, decode_pc hfits, decodePC_wf dw bits, ?_, ?_, encode_decodePC hfits⟩ <;>
      rw [Machine.agent_decodePC] <;> nofun
  | cc =>
    refine ⟨_, decode_cc dw hfits, decodeCC_wf dw bits, ?_, ?_, fun _ => encode_decodeCC hfits⟩ <;>
      rw [Machine.agent_decodeCC] <;> nofun
  | none => exact absurd rfl hport

/-- Settles O1: each line evaluates the decoder on a written word. -/
theorem writtenWordsDecode : Obligations.WrittenWordsDecode := by
  unfold Obligations.WrittenWordsDecode
  decide

/-! ## The table words -/

theorem decodeTableWord_eq_some {nbits w : Nat} {i : Instr} :
    decodeTableWord nbits w = some i ↔ decode tableDataW (commandWordOf nbits w) = .ok i := by
  unfold decodeTableWord
  cases decode tableDataW (commandWordOf nbits w) <;> simp

/-- A table word is the elaboration parameter exactly when it has 64 bits (R97). -/
theorem format_commandWordOf_eq_k {nbits w : Nat} : (commandWordOf nbits w).format = .k ↔ nbits = 64 := by
  unfold commandWordOf
  split_ifs <;> simp_all

end Sys2Proof

namespace Sys2Proof.Machine

theorem runInput_of_decode {w : CommandWord} {i : Instr} {s : State} (h : decode s.dataW w = .ok i) :
    runInput (.command w) s = exec i s := by rw [runInput, runCommand, h]

theorem runInput_of_reject {w : CommandWord} {r : Reject} {s : State} (h : decode s.dataW w = .error r) :
    runInput (.command w) s = .refused (.notACommand r) := by rw [runInput, runCommand, h]

/-- Settles O4: the decoder's reason is the refusal's (`runInput_of_reject`). -/
theorem nonCommandsAreRefused : Obligations.NonCommandsAreRefused := fun s =>
  ⟨runInput_of_reject (decode_rs_one s.dataW), runInput_of_reject (decode_none_zero s.dataW),
    fun _ _ h => runInput_of_reject (decode_tooWide h), fun _ h => if_neg (not_lt.2 h)⟩

/-- A step with a placed word runs the word where it meets the state: before construction, if it is the elaboration
parameter (R97). -/
theorem step_withFetchWord (s : State) (nbits w : Nat) :
    step (s.withFetchWord nbits w) =
      runInput (.command (commandWordOf nbits w)) (if nbits = 64 then withLife .elaborating s else s) := by
  rw [step_cons (s := s.withFetchWord nbits w) rfl]
  simp only [State.withFetchWord, format_commandWordOf_eq_k]
  split <;> rfl

/-- Settles O5: the next input is run (`step_cons`), and a command word runs as what it decodes to. -/
theorem stepRunsDecodedCommand : Obligations.StepRunsDecodedCommand := by
  refine fun s rest => ⟨fun w i hin hdec => ?_, fun d hin => step_cons hin, fun d hin => step_cons hin,
    fun nbits w i hw hdec => ?_, step_nil⟩
  · rw [step_cons hin]
    exact runInput_of_decode hdec
  · rw [step_withFetchWord]
    refine runInput_of_decode ?_
    have hdw : (if nbits = 64 then withLife .elaborating s else s).dataW = tableDataW := by
      split
      · exact hw
      · exact hw
    rw [hdw, decodeTableWord_eq_some.1 hdec]

end Sys2Proof.Machine
end

section
/-! SUPPORT. On a running block a port's command always completes, and so do the clock edges the form has. -/

namespace Sys2Proof.Machine

theorem exec_decodePC_completes {s : State} (hrun : s.life = .running) (w : Nat) :
    ∃ t, exec (decodePC s.dataW w) s = .next t := by
  obtain ⟨v, hv, e⟩ | e := decodePC_cases s.dataW w <;> rw [e]
  · exact ⟨_, (if_pos hv).trans (atPort_running hrun)⟩
  · exact ⟨_, atPort_running hrun⟩

theorem exec_decodeCC_completes {s : State} (hrun : s.life = .running) (w : Nat) :
    ∃ t, exec (decodeCC w) s = .next t := by
  obtain e | e := decodeCC_cases w <;> rw [e] <;> exact ⟨_, atPort_running hrun⟩

section edges
variable {s : State} {r : AsyncRegs} {pc cc : Nat} {late : Bool}

theorem clkCycle_completes (hrun : s.life = .running) (hx : s.crossing = .sync)
    (hpc : pc < 2 ^ Format.width s.dataW .pc) (hcc : cc < 2 ^ Format.width s.dataW .cc) :
    ∃ t, clkCycle pc cc s = .next t := by
  obtain ⟨p, hp⟩ := exec_decodePC_completes hrun pc
  obtain ⟨c, hc⟩ := exec_decodeCC_completes hrun cc
  exact ⟨_, clkCycle_eq_next.2 ⟨hx, hpc, hcc, p, c, hp, hc, rfl⟩⟩

theorem wclkEdge_completes (hrun : s.life = .running) (hx : s.crossing = .async r)
    (hpc : pc < 2 ^ Format.width s.dataW .pc) : ∃ t, wclkEdge pc late s = .next t := by
  obtain ⟨p, hp⟩ := exec_decodePC_completes (s := withAsync r.noteWclk s) hrun pc
  obtain ⟨r', hr', -⟩ := (producerStep_of_exec (agent_decodePC _ pc) hp).crossing rfl
  exact ⟨_, wclkEdge_eq_next.2 ⟨hpc, r, p, r', hx, hp, hr', rfl⟩⟩

theorem rclkEdge_completes (hrun : s.life = .running) (hx : s.crossing = .async r)
    (hcc : cc < 2 ^ Format.width s.dataW .cc) : ∃ t, rclkEdge cc late s = .next t := by
  obtain ⟨c, hc⟩ := exec_decodeCC_completes (s := withAsync r.noteRclk s) hrun cc
  obtain ⟨r', hr', -⟩ := (consumerStep_of_exec (agent_decodeCC cc) hc).crossing rfl
  exact ⟨_, rclkEdge_eq_next.2 ⟨hcc, r, c, r', hx, hc, hr', rfl⟩⟩

theorem clkCycle_of_async (hx : s.crossing = .async r) : clkCycle pc cc s = .refused .noSuchClock := by
  rw [clkCycle, hx]

theorem wclkEdge_of_sync (hx : s.crossing = .sync) : wclkEdge pc late s = .refused .noSuchClock := by
  rw [wclkEdge, hx]

theorem rclkEdge_of_sync (hx : s.crossing = .sync) : rclkEdge cc late s = .refused .noSuchClock := by
  rw [rclkEdge, hx]

end edges

/-- Settles O55, clock by clock. -/
theorem clockEdgesComplete : Obligations.ClockEdgesComplete :=
  fun _ _ _ _ =>
    ⟨fun hrun hpc hcc => ⟨fun hx => clkCycle_completes hrun hx hpc hcc,
      fun ⟨_, hx⟩ => ⟨wclkEdge_completes hrun hx hpc, rclkEdge_completes hrun hx hcc⟩⟩,
    fun hx => ⟨wclkEdge_of_sync hx, rclkEdge_of_sync hx⟩, fun ⟨_, hx⟩ => clkCycle_of_async hx⟩

end Sys2Proof.Machine
end

section
/-! SUPPORT. Where a synchronising step leaves its view: up to the cursor by the step's `d`, on any chain that is not
empty (R185, R186); so `settle` leaves both views at their cursors (R105). -/

namespace Sys2Proof.Machine

open Sys2Proof.Safety

@[simp] theorem gray2bin_bin2gray (b : Word) : gray2bin (bin2gray b) = b := by
  simpa [grayOfCount] using gray2bin_grayOfCount b.toNat

/-- Bringing a chain forward to a `v` that is not behind its view moves the view to `v`. -/
theorem view_bringForward {src v : Word} {chain : List Word} (hne : chain ≠ [])
    (hv : src - v ≤ src - gray2bin (lastStage chain)) : gray2bin (lastStage (bringForward src v chain)) = v := by
  obtain ⟨front, g, rfl⟩ := (List.eq_nil_or_concat' chain).resolve_left hne
  have hlast : lastStage (front ++ [g]) = g := by simp [lastStage]
  rw [hlast] at hv
  simp only [bringForward, List.map_append, List.map_cons, List.map_nil, lastStage, List.getLastD_concat]
  split
  · rename_i hg
    exact sub_right_injective (BitVec.le_antisymm hg hv)
  · exact gray2bin_bin2gray v

/-- A step of at most the lag does not take the view past its cursor. -/
theorem sub_advanced_le {cursor view : Word} {d : Nat} (hd : d ≤ (cursor - view).toNat) :
    cursor - (view + BitVec.ofNat 64 d) ≤ cursor - view := by
  bv_omega

/-- A step of the whole lag takes the view to its cursor. -/
theorem add_lag (cursor view : Word) : view + BitVec.ofNat 64 (cursor - view).toNat = cursor := by
  rw [BitVec.ofNat_toNat, BitVec.setWidth_eq, add_sub_cancel]

section views
variable {s : State} {d : Nat}

theorem tailP_of_sync (hx : s.crossing = .sync) : tailP s = s.tail := by simp only [tailP, hx]

theorem headC_of_sync (hx : s.crossing = .sync) : headC s = s.head := by simp only [headC, hx]

theorem tailP_of_async {r : AsyncRegs} (hx : s.crossing = .async r) : tailP s = gray2bin (lastStage r.ts) := by
  simp only [tailP, hx]

theorem headC_of_async {r : AsyncRegs} (hx : s.crossing = .async r) : headC s = gray2bin (lastStage r.hs) := by
  simp only [headC, hx]

/-- `tail_p <- tail_p +64 d` (R185). -/
theorem tailP_advanceTailP (hne : ∀ r, s.crossing = .async r → r.ts ≠ []) (hd : d ≤ tailLag s) :
    tailP (advanceTailP d s) = tailP s + BitVec.ofNat 64 d := by
  cases hx : s.crossing with
  | sync =>
    have hd0 : d = 0 := by simpa [tailLag, tailP_of_sync hx] using hd
    have hstays : (advanceTailP d s).crossing = .sync := by rw [advanceTailP_crossing, hx, Crossing.moveTailP]
    rw [tailP_of_sync hstays, tailP_of_sync hx, advanceTailP_tail, hd0, BitVec.add_zero]
  | async r =>
    have hmoves : (advanceTailP d s).crossing =
        .async { r with ts := bringForward s.tail (tailP s + BitVec.ofNat 64 d) r.ts } := by
      rw [advanceTailP_crossing, hx, Crossing.moveTailP]
    refine (tailP_of_async hmoves).trans (view_bringForward (hne r hx) ?_)
    rw [← tailP_of_async hx]
    exact sub_advanced_le hd

/-- `head_c <- head_c +64 d` (R186). -/
theorem headC_advanceHeadC (hne : ∀ r, s.crossing = .async r → r.hs ≠ []) (hd : d ≤ headLag s) :
    headC (advanceHeadC d s) = headC s + BitVec.ofNat 64 d := by
  cases hx : s.crossing with
  | sync =>
    have hd0 : d = 0 := by simpa [headLag, headC_of_sync hx] using hd
    have hstays : (advanceHeadC d s).crossing = .sync := by rw [advanceHeadC_crossing, hx, Crossing.moveHeadC]
    rw [headC_of_sync hstays, headC_of_sync hx, advanceHeadC_head, hd0, BitVec.add_zero]
  | async r =>
    have hmoves : (advanceHeadC d s).crossing =
        .async { r with hs := bringForward s.head (headC s + BitVec.ofNat 64 d) r.hs } := by
      rw [advanceHeadC_crossing, hx, Crossing.moveHeadC]
    refine (headC_of_async hmoves).trans (view_bringForward (hne r hx) ?_)
    rw [← headC_of_async hx]
    exact sub_advanced_le hd

/-- `SYNC_TAIL` leaves the chain `hs` alone, so also that it is not empty. -/
theorem hs_ne_nil_advanceTailP (hne : ∀ r, s.crossing = .async r → r.hs ≠ []) :
    ∀ r, (advanceTailP d s).crossing = .async r → r.hs ≠ [] := by
  intro r hr
  rw [advanceTailP_crossing] at hr
  cases hx : s.crossing <;> rw [hx] at hr <;> cases hr
  next r => exact hne r hx

@[simp] theorem headLag_advanceTailP : headLag (advanceTailP d s) = headLag s := by
  rw [headLag, headC_advanceTailP, advanceTailP_head, headLag]

theorem settle_eq (s : State) : settle s = advanceHeadC (headLag s) (advanceTailP (tailLag s) s) := by
  rw [settle, headLag_advanceTailP]

theorem settled_settle (hts : ∀ r, s.crossing = .async r → r.ts ≠ [])
    (hhs : ∀ r, s.crossing = .async r → r.hs ≠ []) :
    Settled (settle s) := by
  rw [settle_eq]
  constructor
  · rw [tailP_advanceHeadC, tailP_advanceTailP hts le_rfl, tailLag, add_lag]
    rfl
  · rw [headC_advanceHeadC (hs_ne_nil_advanceTailP hhs) headLag_advanceTailP.ge, headC_advanceTailP, headLag, add_lag]
    rfl

end views

/-- Settles O56: both steps are within their bounds, and each leaves its view at its cursor (`settled_settle`). -/
theorem settleBringsViewsUpToDate : Obligations.SettleBringsViewsUpToDate := by
  intro s hl hne
  refine ⟨?_, settled_settle (fun r hr => (hne r hr).1) (fun r hr => (hne r hr).2), rfl, rfl, rfl, rfl, rfl, rfl⟩
  refine andThen_eq_next.2 ⟨_, execSyncTail_eq_next.2 ⟨hl, le_rfl, rfl⟩, ?_⟩
  exact execSyncHead_eq_next.2 ⟨hl, headLag_advanceTailP.ge, settle_eq s⟩

end Sys2Proof.Machine
end

section
/-! SUPPORT. Construction: which capacities are legal (R121), and the values of R42 read from a cleared state, its views and
flags among them. -/

namespace Sys2Proof.Machine

/-! ## Legal capacities -/

theorem legalCapacity_ofNat_two_pow {n : Nat} (h1 : 1 ≤ n) (h63 : n ≤ 63) :
    legalCapacity (BitVec.ofNat 64 (2 ^ n)) = true := by
  have hc : (BitVec.ofNat 64 (2 ^ n)).toNat = 2 ^ n := by
    rw [BitVec.toNat_ofNat, Nat.mod_eq_of_lt (Nat.pow_lt_pow_right (by omega) (by omega))]
  have h2 : 2 ≤ 2 ^ n := Nat.pow_le_pow_right (n := 2) (by omega) h1
  have hsub : (BitVec.ofNat 64 (2 ^ n) - 1).toNat = 2 ^ n - 1 := by
    rw [BitVec.toNat_sub_of_le (by rw [BitVec.le_def, hc]; exact Nat.one_le_two_pow), hc]
    rfl
  simp only [legalCapacity, Bool.and_eq_true, decide_eq_true_eq]
  constructor
  · rw [BitVec.le_def, hc]
    exact h2
  · apply BitVec.eq_of_toNat_eq
    rw [BitVec.toNat_and, hsub, hc, Nat.and_two_pow_sub_one_eq_mod, Nat.mod_self]
    rfl

/-- The legal capacities are the powers of two from `2^1` to `2^63` (R121). -/
theorem legalCapacity_iff {c : Word} :
    legalCapacity c = true ↔ ∃ n, 1 ≤ n ∧ n ≤ 63 ∧ c = BitVec.ofNat 64 (2 ^ n) := by
  constructor
  · intro h
    obtain ⟨n, h1, h63, hc⟩ := legalCapacity_toNat h
    exact ⟨n, h1, h63, by rw [← hc, BitVec.ofNat_toNat, BitVec.setWidth_eq]⟩
  · rintro ⟨n, h1, h63, rfl⟩
    exact legalCapacity_ofNat_two_pow h1 h63

/-! ## `CONSTRUCT` where no instance exists -/

section construct
variable {c : Word} {s : State} (hl : s.life = .elaborating)
include hl

theorem exec_construct_legal (hc : legalCapacity c = true) :
    exec (.construct c) s = .next (cleared .constructed { s with capacity := c, indexMask := c - 1 }) :=
  execConstruct_eq_next.2 ⟨hl, hc, rfl⟩

theorem exec_construct_illegal (hc : legalCapacity c = false) : exec (.construct c) s = .fault (.configError c) := by
  change execConstruct c s = _
  rw [execConstruct_eq, if_pos hl, hc, if_neg Bool.false_ne_true]

end construct

/-- Settles O6: the bounds by `legalCapacity_iff`, the failure by `exec_construct_illegal`. -/
theorem capacityLegalIffPowerOfTwo : Obligations.CapacityLegalIffPowerOfTwo :=
  ⟨fun _ => legalCapacity_iff, fun _ _ => exec_construct_illegal, by decide⟩

/-- Settles O7: the listed capacities are tested one by one, any other that is no power of two is illegal by
`legalCapacity_iff`. -/
theorem constructDocumentCases : Obligations.ConstructDocumentCases := by
  have hbad : ∀ c ∈ [(0 : Word), 1, 3, 5], legalCapacity c = false := by simp [legalCapacity]
  have hgood : ∀ p ∈ [((2 : Word), (1 : Word)), (4, 3), (1024, 1023), (65536, 65535)],
      legalCapacity p.1 = true ∧ p.1 - 1 = p.2 := by simp [legalCapacity]
  refine ⟨fun s hl => ⟨fun c hc => exec_construct_illegal hl (hbad c hc), fun c hc => ?_, fun p hp => ?_⟩, by decide⟩
  · refine exec_construct_illegal hl (Bool.eq_false_iff.2 fun h => ?_)
    obtain ⟨n, -, -, hn⟩ := legalCapacity_iff.1 h
    exact hc ⟨n, hn⟩
  · obtain ⟨hc, hmask⟩ := hgood p hp
    exact ⟨_, exec_construct_legal hl hc, rfl, hmask⟩

/-! ## A cleared state -/

@[simp] theorem lastStage_zeros (n : Nat) : lastStage (List.replicate n 0#64) = 0#64 := by
  cases n <;> simp [lastStage, List.getLastD_eq_getLast?, List.getLast?_replicate]

section cleared
variable {l : Life} {s : State}

theorem cleared_crossing_of_sync (hx : s.crossing = .sync) : (cleared l s).crossing = .sync := by
  rw [cleared_crossing, hx, Crossing.cleared]

/-- Every stage and every gray register of a cleared block is 0, and no stage is lost (R198, R240). -/
theorem cleared_crossing_of_async {r : AsyncRegs} (hx : s.crossing = .async r) :
    (cleared l s).crossing = .async
      { headGray := 0, headGrayPrev := 0, tailGray := 0, tailGrayPrev := 0
        ts := List.replicate r.ts.length 0, hs := List.replicate r.hs.length 0 } := by
  rw [cleared_crossing, hx, Crossing.cleared, List.map_const', List.map_const']

@[simp] theorem memRead_cleared (i : Nat) : memRead i (cleared l s) = 0 := rfl

@[simp] theorem tailP_cleared : tailP (cleared l s) = 0#64 := by
  cases hx : s.crossing with
  | sync => exact tailP_of_sync (cleared_crossing_of_sync hx)
  | async r =>
    rw [tailP_of_async (cleared_crossing_of_async hx)]
    simp

@[simp] theorem headC_cleared : headC (cleared l s) = 0#64 := by
  cases hx : s.crossing with
  | sync => exact headC_of_sync (cleared_crossing_of_sync hx)
  | async r =>
    rw [headC_of_async (cleared_crossing_of_async hx)]
    simp

@[simp] theorem empty_cleared : empty (cleared l s) = true := by simp [empty]

/-- A cleared block has room, unless it has no slot at all. -/
theorem full_cleared (hc : s.capacity ≠ 0) : full (cleared l s) = false := by simpa [full] using hc.symm

end cleared

theorem ne_zero_of_legalCapacity {c : Word} (h : legalCapacity c = true) : c ≠ 0 := by
  rintro rfl
  exact absurd h (by decide)

/-- Settles O8: `CONSTRUCT` leaves a cleared state, whose views, slots and flags are those of R42. -/
theorem constructBuildsZeroedInstance : Obligations.ConstructBuildsZeroedInstance := by
  intro c s hl hc
  refine ⟨_, exec_construct_legal hl hc, rfl, rfl, rfl, rfl, tailP_cleared, headC_cleared, memRead_cleared,
    full_cleared (ne_zero_of_legalCapacity hc), empty_cleared, rfl, rfl, rfl, rfl, ?sync, ?async⟩
  case sync => exact fun hx => cleared_crossing_of_sync hx
  case async => exact fun r hx => ⟨_, cleared_crossing_of_async hx, rfl, rfl, rfl, rfl⟩

end Sys2Proof.Machine
end

section
/-! SUPPORT. What the producer's commands do on a running block, by whether the producer sees room (41_push.md): the flag read
from the registers, the outcome of a `PUSH`, and what storing a value does to the slots, the crossing and the ghost state. -/

namespace Sys2Proof.Machine

/-- Bit 1 of the response is `push_ok`, bit 0 is `full` (R94). -/
theorem PResponse.word_stored : PResponse.word { pushOk := true, full := false } = 0b10#2 := by decide

theorem PResponse.word_noRoom : PResponse.word { pushOk := false, full := true } = 0b01#2 := by decide

section push
variable {v : Slot} {s : State}

theorem full_eq_false_iff : full s = false ↔ s.head - tailP s ≠ s.capacity := decide_eq_false_iff_not

theorem full_eq_true_iff : full s = true ↔ s.head - tailP s = s.capacity := decide_eq_true_iff

theorem exec_push_of_room (hrun : s.life = .running) (hv : v < 2 ^ s.dataW) (hroom : s.head - tailP s ≠ s.capacity) :
    exec (.push v) s = .next (respondP { pushOk := true, full := false } (enqueue v s)) :=
  execPush_eq_next.2 ⟨hv, .inr ⟨hrun, .inr ⟨full_eq_false_iff.2 hroom, rfl⟩⟩⟩

theorem exec_push_of_full (hrun : s.life = .running) (hv : v < 2 ^ s.dataW) (hfull : s.head - tailP s = s.capacity) :
    exec (.push v) s = .next (respondP { pushOk := false, full := true } s) :=
  execPush_eq_next.2 ⟨hv, .inr ⟨hrun, .inl ⟨full_eq_true_iff.2 hfull, rfl⟩⟩⟩

/-- A push writes the slot `head & index_mask` and no other (R139, R61). -/
theorem memRead_enqueue (hm : Memory.wf s.storage) (i : Nat) :
    memRead i (enqueue v s) = if i = writeIndex s then v else memRead i s :=
  memRead_memWrite hm (writeIndex s) v i

/-- In `SYNC` the consumer sees the new `head` in the same step, so `HC` follows (R189). -/
theorem enqueue_of_sync (hx : s.crossing = .sync) :
    (enqueue v s).crossing = .sync ∧ (enqueue v s).ghost.hc = s.ghost.hc + 1 := by
  rw [enqueue_crossing, enqueue_ghost, hx]
  exact ⟨rfl, rfl⟩

/-- In `ASYNC` a push publishes the gray code of the new `head` and moves no view (R146). -/
theorem enqueue_of_async {r : AsyncRegs} (hx : s.crossing = .async r) :
    (enqueue v s).crossing = .async { r with headGrayPrev := r.headGray, headGray := bin2gray (s.head + 1) } ∧
      (enqueue v s).ghost.hc = s.ghost.hc := by
  rw [enqueue_crossing, enqueue_ghost, hx]
  exact ⟨rfl, rfl⟩

/-- At `head == 2^64 - 1` the mask alone selects the slot: the last one (R148 case e). -/
theorem writeIndex_of_head_allOnes (hhead : s.head = 0xFFFFFFFFFFFFFFFF) : writeIndex s = s.indexMask.toNat := by
  rw [writeIndex, hhead]
  exact congrArg BitVec.toNat BitVec.allOnes_and

end push

/-- Settles O17: a `PUSH` that finds room is `enqueue` with its response (`exec_push_of_room`); the slots by
`memRead_enqueue`, the two forms by `enqueue_of_sync` and `enqueue_of_async`. -/
theorem pushStoresAndPublishes : Obligations.PushStoresAndPublishes := by
  intro v s hrun hv hm hroom
  refine ⟨_, exec_push_of_room hrun hv hroom, rfl, PResponse.word_stored, rfl, ?slots, ?sync, ?async, rfl, rfl, rfl, rfl,
    rfl, rfl, rfl, rfl, rfl, ?view, rfl, rfl, rfl⟩
  case slots => exact memRead_enqueue hm
  case sync => exact enqueue_of_sync
  case async => exact fun _ => enqueue_of_async
  case view => exact tailP_enqueue s v

/-- Settles O18: a `PUSH` that finds no room only responds (`exec_push_of_full`). -/
theorem pushFailsWhenFull : Obligations.PushFailsWhenFull :=
  fun _ _ hrun hv hfull => ⟨_, exec_push_of_full hrun hv hfull, rfl, PResponse.word_noRoom⟩

/-- Settles O19: the slot is that of `writeIndex_of_head_allOnes`, and subtraction modulo `2^64` does not see the wrap. -/
theorem pushCrossesCursorWrap : Obligations.PushCrossesCursorWrap := by
  intro v s hrun hv hm hhead hroom
  refine ⟨_, exec_push_of_room hrun hv hroom, ?wraps, ?slot, ?difference⟩
  case wraps =>
    rw [respondP_head, enqueue_head, hhead]
    rfl
  case slot => rw [memRead_respondP, memRead_enqueue hm, writeIndex_of_head_allOnes hhead, if_pos rfl]
  case difference =>
    rw [respondP_head, tailP_respondP, enqueue_head, tailP_enqueue]
    exact add_sub_right_comm s.head 1 (tailP s)

/-- Settles O20: on a running block an idle command is its response alone (`execPIdle_eq_next`, `execCIdle_eq_next`). -/
theorem idleCommandsChangeNothing : Obligations.IdleCommandsChangeNothing :=
  fun _ hrun => ⟨execPIdle_eq_next.2 (.inr ⟨hrun, rfl⟩), execCIdle_eq_next.2 (.inr ⟨hrun, rfl⟩)⟩

end Sys2Proof.Machine
end

section
/-! SUPPORT. What a `POP` does on a running block, by whether the consumer sees a value (42_pop.md): the flag read from the
registers, the response word as a number, the outcome of a `POP`, and what taking a value does to the crossing and the ghost
state. -/

namespace Sys2Proof.Machine

/-- The fields of a consumer's response word as a number: `pop_ok`, `empty`, then the `DATA_W` bits of `rd_data` (R96). -/
theorem CResponse.word_toNat {dw : Nat} {c : CResponse} (hfits : c.rdData < 2 ^ dw) :
    (c.word dw).toNat = c.popOk.toNat * 2 ^ (dw + 1) + c.empty.toNat * 2 ^ dw + c.rdData := by
  have hempty : c.empty.toNat < 2 ^ 1 := Bool.toNat_lt c.empty
  rw [CResponse.word, BitVec.toNat_append, BitVec.toNat_append, BitVec.toNat_ofBool, BitVec.toNat_ofBool,
    BitVec.toNat_ofNat, Nat.mod_eq_of_lt hfits, ← Nat.shiftLeft_add_eq_or_of_lt hfits,
    ← Nat.shiftLeft_add_eq_or_of_lt hempty, Nat.shiftLeft_eq, Nat.shiftLeft_eq]
  ring

section pop
variable {s : State}

theorem empty_eq_false_iff : empty s = false ↔ s.tail ≠ headC s := decide_eq_false_iff_not.trans ne_comm

theorem empty_eq_true_iff : empty s = true ↔ s.tail = headC s := decide_eq_true_iff.trans eq_comm

theorem exec_pop_of_not_empty (hrun : s.life = .running) (he : empty s = false) :
    exec .pop s =
      .next (respondC { popOk := true, empty := false, rdData := memRead (readIndex s) s } (dequeue s)) :=
  execPop_eq_next.2 (.inr ⟨hrun, .inr ⟨he, rfl⟩⟩)

theorem exec_pop_of_empty (hrun : s.life = .running) (he : empty s = true) :
    exec .pop s = .next (respondC { popOk := false, empty := true, rdData := 0 } s) :=
  execPop_eq_next.2 (.inr ⟨hrun, .inl ⟨he, rfl⟩⟩)

/-- In `SYNC` the producer sees the new `tail` in the same step, so `TP` follows (R189). -/
theorem dequeue_of_sync (hx : s.crossing = .sync) :
    (dequeue s).crossing = .sync ∧ (dequeue s).ghost.tp = s.ghost.tp + 1 := by
  rw [dequeue_crossing, dequeue_ghost, hx]
  exact ⟨rfl, rfl⟩

/-- In `ASYNC` a pop publishes the gray code of the new `tail` and moves no view (R171). -/
theorem dequeue_of_async {r : AsyncRegs} (hx : s.crossing = .async r) :
    (dequeue s).crossing = .async { r with tailGrayPrev := r.tailGray, tailGray := bin2gray (s.tail + 1) } ∧
      (dequeue s).ghost.tp = s.ghost.tp := by
  rw [dequeue_crossing, dequeue_ghost, hx]
  exact ⟨rfl, rfl⟩

end pop

/-- Settles O21: a `POP` that finds a value is `dequeue` with its response (`exec_pop_of_not_empty`), which writes no slot;
the two forms by `dequeue_of_sync` and `dequeue_of_async`. -/
theorem popReturnsAndPublishes : Obligations.PopReturnsAndPublishes := by
  intro s hrun hne
  refine ⟨_, exec_pop_of_not_empty hrun (empty_eq_false_iff.2 hne), rfl, rfl, ?slots, ?sync, ?async, rfl, rfl, rfl, rfl,
    rfl, rfl, rfl, rfl, rfl, ?view, rfl, rfl, rfl⟩
  case slots => exact fun _ => rfl
  case sync => exact dequeue_of_sync
  case async => exact fun _ => dequeue_of_async
  case view => exact headC_dequeue s

/-- Settles O22: a `POP` that finds no value only responds (`exec_pop_of_empty`), with `empty` the one bit set. -/
theorem popFailsWhenEmpty : Obligations.PopFailsWhenEmpty := by
  intro s hrun he
  refine ⟨_, exec_pop_of_empty hrun (empty_eq_true_iff.2 he), rfl, ?word⟩
  rw [respondC_cOut, CResponse.word_toNat (Nat.two_pow_pos s.dataW)]
  simp

end Sys2Proof.Machine

namespace Sys2Proof.Safety

open Sys2Proof.Machine

section fifo
variable {s t : State} (h : BlockInv s)
include h

/-- Every slot reads as a value of `DATA_W` bits (R22). -/
theorem BlockInv.memRead_fits (i : Nat) : memRead i s < 2 ^ s.dataW :=
  Memory.read_lt h.storageFits (Nat.two_pow_pos s.dataW) i

/-- The invariant holds after every list of inputs, each of which keeps it (`BlockInv.runInput`). -/
theorem BlockInv.feed {xs : List Input} (e : feed xs s = .next t) : BlockInv t := by
  induction xs generalizing s with
  | nil =>
    cases e
    exact h
  | cons x xs ih =>
    obtain ⟨u, hu, ht⟩ := andThen_eq_next.1 e
    exact ih (h.runInput hu) ht

theorem BlockInv.popped_le_pushed : s.ghost.popped ≤ s.ghost.pushed := h.poppedLeHC.trans h.hcLePushed

/-- `OUT` has one entry per successful pop (R33). -/
theorem BlockInv.outs_length : s.ghost.outs.length = s.ghost.popped := by
  rw [h.outsAreIns, List.length_take_of_le]
  exact h.insLength ▸ h.popped_le_pushed

/-- The n-th pop returned the value of the n-th push (R46, R177). -/
theorem BlockInv.outs_getElem? {n : Nat} (hn : n < s.ghost.popped) : s.ghost.outs[n]? = s.ghost.ins[n]? := by
  rw [h.outsAreIns, List.getElem?_take_of_lt hn]

end fifo

/-- Settles O23: the slot a `POP` reads holds push number `POPPED` (`BlockInv.ins_popped`), a value that fits the response
word (`BlockInv.memRead_fits`). -/
theorem popReturnsOldestPushedValue : Obligations.PopReturnsOldestPushedValue := by
  intro s h hrun he
  refine ⟨_, _, exec_pop_of_not_empty hrun he, h.ins_popped he, rfl, rfl, rfl, ?word⟩
  rw [respondC_cOut, CResponse.word_toNat (h.memRead_fits _)]
  simp

/-- Settles O32: the reset state meets the invariant and every schedule keeps it (`BlockInv.feed`), and the order of values
is part of it. -/
theorem everyScheduleDeliversFifo : Obligations.EveryScheduleDeliversFifo := by
  intro p xs t hp e
  have ht := (blockInv_resetOf hp).feed e
  exact ⟨ht.popped_le_pushed, ht.insLength, ht.outs_length, fun _ => ht.outs_getElem?, ht.slotsHoldQueue⟩

end Sys2Proof.Safety
end

section
/-! SUPPORT. The gray code's two laws (R192, R193, R200): each conversion undoes the other, because the shifts of `gray2bin`
double up to a shift by the whole word; and adding 1 flips a block of lowest bits, whose upper end is the one bit that
changes in the code. -/

namespace Sys2Proof.Machine

/-! ## The conversions -/

/-- The one shift of `bin2gray` passes through the shifts of `gray2bin`. -/
theorem bin2gray_gray2bin (g : Word) : bin2gray (gray2bin g) = g := by
  have hswap : bin2gray (gray2bin g) = gray2bin (bin2gray g) := by
    rw [bin2gray, gray2bin, xorShift_comm 1 32, xorShift_comm 1 16, xorShift_comm 1 8, xorShift_comm 1 4,
      xorShift_comm 1 2, gray2bin, bin2gray]
  rw [hswap, gray2bin_bin2gray]

/-- Settles O48. -/
theorem grayCodeInverts : Obligations.GrayCodeInverts := fun b => ⟨gray2bin_bin2gray b, bin2gray_gray2bin b⟩

/-- Bit `i` of the code; above bit 63 there is nothing (R192). -/
theorem bin2gray_getLsbD (b : Word) (i : Nat) : (bin2gray b).getLsbD i = (b.getLsbD i ^^ b.getLsbD (i + 1)) := by
  rw [bin2gray, xorShift_getLsbD, Nat.add_comm]

theorem bin2gray_getLsbD_63 (b : Word) : (bin2gray b).getLsbD 63 = b.getLsbD 63 := by
  rw [bin2gray_getLsbD, BitVec.getLsbD_of_ge b 64 le_rfl, Bool.xor_false]

/-- Settles O47: the bits of the code by `bin2gray_getLsbD`, and those of the inverse by the same, since its code is the
value it was given (`bin2gray_gray2bin`). -/
theorem grayCodeBitByBit : Obligations.GrayCodeBitByBit := by
  intro b
  refine ⟨bin2gray_getLsbD_63 b, fun i _ => bin2gray_getLsbD b i, ?_, fun i _ => ?_⟩
  · rw [← bin2gray_getLsbD_63, bin2gray_gray2bin]
  · have hbit := bin2gray_getLsbD (gray2bin b) i
    rw [bin2gray_gray2bin] at hbit
    rw [hbit, Bool.xor_comm, Bool.xor_assoc, Bool.xor_self, Bool.xor_false]

/-! ## Successive values -/

/-- Adding 1 flips the bits that only ones stand below. -/
theorem testBit_add_one (n j : Nat) : (n + 1).testBit j = (n.testBit j ^^ decide (2 ^ j ∣ n + 1)) := by
  rw [Nat.testBit_eq_decide_div_mod_eq, Nat.testBit_eq_decide_div_mod_eq, Nat.succ_div]
  by_cases hflip : 2 ^ j ∣ n + 1
  · rw [if_pos hflip, decide_eq_true hflip, Bool.xor_true, ← decide_not, decide_eq_decide]
    omega
  · rw [if_neg hflip, decide_eq_false hflip, Bool.xor_false, Nat.add_zero]

theorem add_one_getLsbD (b : Word) {j : Nat} (hj : j < 64) :
    (b + 1).getLsbD j = (b.getLsbD j ^^ decide (2 ^ j ∣ b.toNat + 1)) := by
  have hadd : (b + 1).toNat = (b.toNat + 1) % 2 ^ 64 := BitVec.toNat_add b 1
  rw [BitVec.getLsbD, hadd, Nat.testBit_mod_two_pow, decide_eq_true hj, Bool.true_and, testBit_add_one, BitVec.getLsbD]

/-- The xor of two bits changes when exactly one of them is flipped. -/
theorem xor_ne_xor_flipped_iff (a b flipA flipB : Bool) :
    (a ^^ b) ≠ ((a ^^ flipA) ^^ (b ^^ flipB)) ↔ flipA ≠ flipB := by
  revert a b flipA flipB
  decide

/-- The code of the next value differs where a bit flips and the one above it does not; above bit 63 none flips. -/
theorem bin2gray_getLsbD_ne_iff (b : Word) {j : Nat} (hj : j < 64) :
    (bin2gray b).getLsbD j ≠ (bin2gray (b + 1)).getLsbD j ↔
      ¬ (2 ^ j ∣ b.toNat + 1 ↔ j + 1 < 64 ∧ 2 ^ (j + 1) ∣ b.toNat + 1) := by
  have habove : (b + 1).getLsbD (j + 1) =
      (b.getLsbD (j + 1) ^^ decide (j + 1 < 64 ∧ 2 ^ (j + 1) ∣ b.toNat + 1)) := by
    by_cases hj1 : j + 1 < 64
    · rw [add_one_getLsbD b hj1]
      simp only [hj1, true_and]
    · rw [BitVec.getLsbD_of_ge _ _ (not_lt.1 hj1), BitVec.getLsbD_of_ge _ _ (not_lt.1 hj1)]
      simp only [hj1, false_and, decide_false, Bool.xor_false]
  rw [bin2gray_getLsbD, bin2gray_getLsbD, add_one_getLsbD b hj, habove, xor_ne_xor_flipped_iff, ne_eq, decide_eq_decide]

/-- Settles O49: the flipped bits are those up to the number of factors 2 in the next value, or all 64 at the wrap
(`bin2gray_getLsbD_ne_iff`). -/
theorem successiveGrayCodesDifferInOneBit : Obligations.SuccessiveGrayCodesDifferInOneBit := by
  intro b
  have hflips (j : Nat) : 2 ^ j ∣ b.toNat + 1 ↔ j ≤ padicValNat 2 (b.toNat + 1) :=
    padicValNat_dvd_iff_le b.toNat.succ_ne_zero
  refine ⟨min (padicValNat 2 (b.toNat + 1)) 63, by omega, fun j hj => ?_⟩
  rw [bin2gray_getLsbD_ne_iff b hj, hflips, hflips]
  omega

end Sys2Proof.Machine
end

section
/-! SUPPORT. The abstract synchronising steps (43_sync.md section 1): when they are steps, what they leave unchanged, and that
they commute with the operations that neither read nor write their view. -/

namespace Sys2Proof.Machine

open Sys2Proof.Safety

section outcome
variable {d : Nat} {s : State} (hl : s.life = .inReset ∨ s.life = .running)
include hl

theorem exec_syncTail_of_le (hd : d ≤ tailLag s) : exec (.syncTail d) s = .next (advanceTailP d s) :=
  execSyncTail_eq_next.2 ⟨hl, hd, rfl⟩

theorem exec_syncHead_of_le (hd : d ≤ headLag s) : exec (.syncHead d) s = .next (advanceHeadC d s) :=
  execSyncHead_eq_next.2 ⟨hl, hd, rfl⟩

theorem exec_syncTail_of_lt (hd : tailLag s < d) : exec (.syncTail d) s = .refused .viewPastCursor :=
  (ifReset_of_reset hl).trans (if_neg (not_le.2 hd))

theorem exec_syncHead_of_lt (hd : headLag s < d) : exec (.syncHead d) s = .refused .viewPastCursor :=
  (ifReset_of_reset hl).trans (if_neg (not_le.2 hd))

end outcome

/-- Settles O26. -/
theorem viewNeverPassesCursor : Obligations.ViewNeverPassesCursor :=
  fun _ _ hl => ⟨exec_syncTail_of_lt hl, exec_syncHead_of_lt hl⟩

/-! ## The crossing after a step -/

section crossing
variable {s : State} {r : AsyncRegs} (d : Nat)

theorem advanceTailP_crossing_of_sync (hx : s.crossing = .sync) : (advanceTailP d s).crossing = .sync := by
  rw [advanceTailP_crossing, hx, Crossing.moveTailP]

theorem advanceHeadC_crossing_of_sync (hx : s.crossing = .sync) : (advanceHeadC d s).crossing = .sync := by
  rw [advanceHeadC_crossing, hx, Crossing.moveHeadC]

theorem advanceTailP_crossing_of_async (hx : s.crossing = .async r) : (advanceTailP d s).crossing =
    .async { r with ts := bringForward s.tail (tailP s + BitVec.ofNat 64 d) r.ts } := by
  rw [advanceTailP_crossing, hx, Crossing.moveTailP]

theorem advanceHeadC_crossing_of_async (hx : s.crossing = .async r) : (advanceHeadC d s).crossing =
    .async { r with hs := bringForward s.head (headC s + BitVec.ofNat 64 d) r.hs } := by
  rw [advanceHeadC_crossing, hx, Crossing.moveHeadC]

end crossing

/-- Settles O24: the step is `advanceTailP`, whose view is `tailP_advanceTailP`. -/
theorem syncTailMovesViewForward : Obligations.SyncTailMovesViewForward := by
  intro d s hl hd hne
  refine ⟨_, exec_syncTail_of_le hl hd, tailP_advanceTailP hne hd, advanceTailP_crossing_of_sync d, fun r hr => ?_, rfl, rfl,
    rfl, headC_advanceTailP s d, rfl, rfl, rfl, rfl, rfl, rfl, rfl, rfl⟩
  exact ⟨_, advanceTailP_crossing_of_async d hr, bringForward_length _ _ _⟩

/-- Settles O25: the step is `advanceHeadC`, whose view is `headC_advanceHeadC`. -/
theorem syncHeadMovesViewForward : Obligations.SyncHeadMovesViewForward := by
  intro d s hl hd hne
  refine ⟨_, exec_syncHead_of_le hl hd, headC_advanceHeadC hne hd, advanceHeadC_crossing_of_sync d, fun r hr => ?_, rfl, rfl,
    rfl, tailP_advanceHeadC s d, rfl, rfl, rfl, rfl, rfl, rfl, rfl, rfl⟩
  exact ⟨_, advanceHeadC_crossing_of_async d hr, bringForward_length _ _ _⟩

/-! ## The flags -/

/-- Settles O27: `full` and `empty` say that a view is as far behind as it can be (`BlockInv.full_iff`,
`BlockInv.empty_iff`), and the step moves the view forward alone. -/
theorem syncNeverRaisesFlag : Obligations.SyncNeverRaisesFlag := by
  intro d s t h
  refine ⟨fun e hfull => ?_, fun e hempty => ?_⟩
  · have ht := h.exec e
    obtain ⟨-, -, rfl⟩ := execSyncTail_eq_next.1 e
    have hmoved : s.ghost.pushed = s.ghost.tp + d + depth s := ht.full_iff.1 hfull
    have hbound := h.pushedWithinDepth
    exact h.full_iff.2 (by omega)
  · have ht := h.exec e
    obtain ⟨-, -, rfl⟩ := execSyncHead_eq_next.1 e
    have hmoved : s.ghost.hc + d = s.ghost.popped := ht.empty_iff.1 hempty
    have hbound := h.poppedLeHC
    exact h.empty_iff.2 (by omega)

/-! ## What the other side's commands read and write -/

@[simp] theorem empty_advanceTailP (d : Nat) (s : State) : empty (advanceTailP d s) = empty s := by
  rw [empty, headC_advanceTailP, advanceTailP_tail, empty]

@[simp] theorem full_advanceHeadC (d : Nat) (s : State) : full (advanceHeadC d s) = full s := by
  rw [full, tailP_advanceHeadC, advanceHeadC_head, advanceHeadC_capacity, full]

@[simp] theorem tailLag_advanceHeadC (d : Nat) (s : State) : tailLag (advanceHeadC d s) = tailLag s := by
  rw [tailLag, tailP_advanceHeadC, advanceHeadC_tail, tailLag]

@[simp] theorem sameStep_moveTailP (x : Crossing) (tail v : Word) : (x.moveTailP tail v).sameStep = x.sameStep := by
  cases x <;> rfl

@[simp] theorem sameStep_moveHeadC (x : Crossing) (head v : Word) : (x.moveHeadC head v).sameStep = x.sameStep := by
  cases x <;> rfl

/-- The two chains are separate registers, and so are the two ghost counts. -/
theorem advanceTailP_advanceHeadC (d e : Nat) (s : State) :
    advanceTailP d (advanceHeadC e s) = advanceHeadC e (advanceTailP d s) := by
  obtain ⟨capacity, indexMask, dataW, head, tail, storage, crossing, life, pOut, cOut, ghost, inputs⟩ := s
  cases crossing <;> rfl

/-- Which stages a synchronising step brings forward does not depend on how far the cursor has gone since (R185, R186). -/
theorem bringForward_of_cursor_advanced {chain : List Word} {published seen v p : Nat} (h : ChainOk chain published seen)
    (hseen : seen ≤ v) (hv : v ≤ published) (hp : published ≤ p) (hclose : p - seen < 2 ^ 64) :
    bringForward (BitVec.ofNat 64 p) (BitVec.ofNat 64 v) chain =
      bringForward (BitVec.ofNat 64 published) (BitVec.ofNat 64 v) chain := by
  obtain ⟨counts, rfl, hm, hle, hl⟩ := h
  refine List.map_congr_left fun g hg => ?_
  obtain ⟨c, hc, rfl⟩ := List.mem_map.1 hg
  have h1 := hle c hc
  have h2 := getLast?_le hm hl c hc
  have hahead : BitVec.ofNat 64 p - BitVec.ofNat 64 c ≤ BitVec.ofNat 64 p - BitVec.ofNat 64 v ↔
      BitVec.ofNat 64 published - BitVec.ofNat 64 c ≤ BitVec.ofNat 64 published - BitVec.ofNat 64 v := by
    rw [BitVec.le_def, BitVec.le_def, ofNat_sub_ofNat (by omega) (by omega), ofNat_sub_ofNat (by omega) (by omega),
      ofNat_sub_ofNat h1 (by omega), ofNat_sub_ofNat hv (by omega)]
    omega
  simp only [gray2bin_grayOfCount, hahead]

section queue
variable {d : Nat} {s : State} (h : BlockInv s)
include h

theorem head_add_one : s.head + 1 = BitVec.ofNat 64 (s.ghost.pushed + 1) :=
  (congrArg (· + 1) h.headIsPushed).trans (BitVec.ofNat_add _ 1).symm

theorem tail_add_one : s.tail + 1 = BitVec.ofNat 64 (s.ghost.popped + 1) :=
  (congrArg (· + 1) h.tailIsPopped).trans (BitVec.ofNat_add _ 1).symm

/-- The chain `ts` is the same whether the step comes before or after a `POP` (R187). -/
theorem moveTailP_publishTail (he : empty s = false) (hd : d ≤ tailLag s) :
    (s.crossing.publishTail (s.tail + 1)).moveTailP (s.tail + 1) (tailP (dequeue s) + BitVec.ofNat 64 d) =
      (s.crossing.moveTailP s.tail (tailP s + BitVec.ofNat 64 d)).publishTail (s.tail + 1) := by
  have hxok := h.crossingOk
  cases hx : s.crossing <;> rw [hx] at hxok
  case sync => rfl
  case async r =>
    obtain ⟨-, -, -, -, -, -, hts, -⟩ := hxok
    obtain ⟨h1, h2, h3, h4, h5⟩ := h.counts
    have hvalue := h.lt_of_not_empty he
    rw [h.tailLag_eq] at hd
    have hview : tailP (dequeue s) = tailP s := by rw [tailP_of_async (dequeue_of_async hx).1, tailP_of_async hx]
    have hchain := bringForward_of_cursor_advanced (v := s.ghost.tp + d) (p := s.ghost.popped + 1) hts (by omega) (by omega)
      (by omega) (by omega)
    rw [BitVec.ofNat_add s.ghost.tp d, ← h.tailPIsTP, ← h.tailIsPopped, ← tail_add_one h] at hchain
    rw [hview]
    simp only [Crossing.publishTail, Crossing.moveTailP, hchain]

/-- The chain `hs` is the same whether the step comes before or after a `PUSH` (R187). -/
theorem moveHeadC_publishHead (v : Slot) (hf : full s = false) (hd : d ≤ headLag s) :
    (s.crossing.publishHead (s.head + 1)).moveHeadC (s.head + 1) (headC (enqueue v s) + BitVec.ofNat 64 d) =
      (s.crossing.moveHeadC s.head (headC s + BitVec.ofNat 64 d)).publishHead (s.head + 1) := by
  have hxok := h.crossingOk
  cases hx : s.crossing <;> rw [hx] at hxok
  case sync => rfl
  case async r =>
    obtain ⟨-, -, -, -, -, -, -, hhs⟩ := hxok
    obtain ⟨h1, h2, h3, h4, h5⟩ := h.counts
    have hroom := h.lt_of_not_full hf
    rw [h.headLag_eq] at hd
    have hview : headC (enqueue v s) = headC s := by rw [headC_of_async (enqueue_of_async hx).1, headC_of_async hx]
    have hchain := bringForward_of_cursor_advanced (v := s.ghost.hc + d) (p := s.ghost.pushed + 1) hhs (by omega) (by omega)
      (by omega) (by omega)
    rw [BitVec.ofNat_add s.ghost.hc d, ← h.headCIsHC, ← h.headIsPushed, ← head_add_one h] at hchain
    rw [hview]
    simp only [Crossing.publishHead, Crossing.moveHeadC, hchain]

theorem advanceTailP_dequeue (he : empty s = false) (hd : d ≤ tailLag s) :
    advanceTailP d (dequeue s) = dequeue (advanceTailP d s) :=
  calc advanceTailP d (dequeue s)
    _ = withViews ((s.crossing.publishTail (s.tail + 1)).moveTailP (s.tail + 1) (tailP (dequeue s) + BitVec.ofNat 64 d))
        (s.ghost.tp + s.crossing.sameStep + d) s.ghost.hc (dequeue s) := rfl
    _ = withViews ((s.crossing.moveTailP s.tail (tailP s + BitVec.ofNat 64 d)).publishTail (s.tail + 1))
        (s.ghost.tp + d + (advanceTailP d s).crossing.sameStep) s.ghost.hc (dequeue s) := by
      rw [moveTailP_publishTail h he hd, advanceTailP_crossing, sameStep_moveTailP, Nat.add_right_comm]
    _ = dequeue (advanceTailP d s) := rfl

theorem advanceHeadC_enqueue (v : Slot) (hf : full s = false) (hd : d ≤ headLag s) :
    advanceHeadC d (enqueue v s) = enqueue v (advanceHeadC d s) :=
  calc advanceHeadC d (enqueue v s)
    _ = withViews
        ((s.crossing.publishHead (s.head + 1)).moveHeadC (s.head + 1) (headC (enqueue v s) + BitVec.ofNat 64 d))
        s.ghost.tp (s.ghost.hc + s.crossing.sameStep + d) (enqueue v s) := rfl
    _ = withViews ((s.crossing.moveHeadC s.head (headC s + BitVec.ofNat 64 d)).publishHead (s.head + 1))
        s.ghost.tp (s.ghost.hc + d + (advanceHeadC d s).crossing.sameStep) (enqueue v s) := by
      rw [moveHeadC_publishHead h v hf hd, advanceHeadC_crossing, sameStep_moveHeadC, Nat.add_right_comm]
    _ = enqueue v (advanceHeadC d s) := rfl

/-- A `POP` leaves `tail_p` no less far behind. -/
theorem tailLag_le_dequeue (hrun : s.life = .running) (he : empty s = false) : tailLag s ≤ tailLag (dequeue s) := by
  have hstep := sameStep_le_one s.crossing
  rw [(h.dequeued hrun he).tailLag_eq, h.tailLag_eq]
  change _ ≤ s.ghost.popped + 1 - (s.ghost.tp + s.crossing.sameStep)
  omega

/-- A `PUSH` leaves `head_c` no less far behind. -/
theorem headLag_le_enqueue {v : Slot} (hrun : s.life = .running) (hv : v < 2 ^ s.dataW) (hf : full s = false) :
    headLag s ≤ headLag (enqueue v s) := by
  have hstep := sameStep_le_one s.crossing
  rw [(h.enqueued hrun hv hf).headLag_eq, h.headLag_eq]
  change _ ≤ s.ghost.pushed + 1 - (s.ghost.hc + s.crossing.sameStep)
  omega

end queue

/-! ## Both orders (R187) -/

theorem exec_pop_of_inReset {s : State} (hr : s.life = .inReset) :
    exec .pop s = .next (respondC CResponse.quiet s) := execPop_eq_next.2 (.inl ⟨hr, rfl⟩)

theorem exec_push_of_inReset {v : Slot} {s : State} (hv : v < 2 ^ s.dataW) (hr : s.life = .inReset) :
    exec (.push v) s = .next (respondP PResponse.quiet s) := execPush_eq_next.2 ⟨hv, .inl ⟨hr, rfl⟩⟩

theorem exec_push_of_tooWide {v : Slot} {s : State} (hv : ¬ v < 2 ^ s.dataW) :
    exec (.push v) s = .refused .operandTooWide := if_neg hv

section orders
variable {d : Nat} {s : State} (hl : s.life = .inReset ∨ s.life = .running)
include hl

/-- An idle command of the producer is a response, the same where the flag is (R147, R244). -/
theorem pIdle_responds_alike {u : State} (hlife : u.life = s.life) (hfull : full u = full s) :
    ∃ p, exec .pIdle s = .next (respondP p s) ∧ exec .pIdle u = .next (respondP p u) := by
  rcases hl with hr | hrun
  · exact ⟨_, execPIdle_eq_next.2 (.inl ⟨hr, rfl⟩), execPIdle_eq_next.2 (.inl ⟨hlife.trans hr, rfl⟩)⟩
  · exact ⟨_, execPIdle_eq_next.2 (.inr ⟨hrun, rfl⟩), execPIdle_eq_next.2 (.inr ⟨hlife.trans hrun, by rw [hfull]⟩)⟩

/-- An idle command of the consumer is a response, the same where the flag is (R172, R244). -/
theorem cIdle_responds_alike {u : State} (hlife : u.life = s.life) (hempty : empty u = empty s) :
    ∃ c, exec .cIdle s = .next (respondC c s) ∧ exec .cIdle u = .next (respondC c u) := by
  rcases hl with hr | hrun
  · exact ⟨_, execCIdle_eq_next.2 (.inl ⟨hr, rfl⟩), execCIdle_eq_next.2 (.inl ⟨hlife.trans hr, rfl⟩)⟩
  · exact ⟨_, execCIdle_eq_next.2 (.inr ⟨hrun, rfl⟩), execCIdle_eq_next.2 (.inr ⟨hlife.trans hrun, by rw [hempty]⟩)⟩

theorem respondP_then_syncTail (hd : d ≤ tailLag s) (p : PResponse) :
    exec (.syncTail d) (respondP p s) = .next (respondP p (advanceTailP d s)) :=
  exec_syncTail_of_le (s := respondP p s) hl hd

theorem respondC_then_syncTail (hd : d ≤ tailLag s) (c : CResponse) :
    exec (.syncTail d) (respondC c s) = .next (respondC c (advanceTailP d s)) :=
  exec_syncTail_of_le (s := respondC c s) hl hd

theorem respondP_then_syncHead (hd : d ≤ headLag s) (p : PResponse) :
    exec (.syncHead d) (respondP p s) = .next (respondP p (advanceHeadC d s)) :=
  exec_syncHead_of_le (s := respondP p s) hl hd

theorem respondC_then_syncHead (hd : d ≤ headLag s) (c : CResponse) :
    exec (.syncHead d) (respondC c s) = .next (respondC c (advanceHeadC d s)) :=
  exec_syncHead_of_le (s := respondC c s) hl hd

theorem syncTail_commutes_pop (h : BlockInv s) (hd : d ≤ tailLag s) :
    andThen (exec .pop s) (exec (.syncTail d)) = exec .pop (advanceTailP d s) := by
  have hempty := empty_advanceTailP d s
  rcases hl with hr | hrun
  · rw [exec_pop_of_inReset hr, exec_pop_of_inReset (s := advanceTailP d s) hr, andThen_next,
      respondC_then_syncTail (.inl hr) hd]
  · cases he : empty s <;> rw [he] at hempty
    case true =>
      rw [exec_pop_of_empty hrun he, exec_pop_of_empty (s := advanceTailP d s) hrun hempty, andThen_next,
        respondC_then_syncTail (.inr hrun) hd]
    case false =>
      have hlag := hd.trans (tailLag_le_dequeue h hrun he)
      rw [exec_pop_of_not_empty hrun he, exec_pop_of_not_empty (s := advanceTailP d s) hrun hempty, andThen_next,
        respondC_then_syncTail (s := dequeue s) (.inr hrun) hlag, advanceTailP_dequeue h he hd]
      rfl

theorem syncHead_commutes_push (h : BlockInv s) (hd : d ≤ headLag s) (v : Slot) :
    andThen (exec (.push v) s) (exec (.syncHead d)) = exec (.push v) (advanceHeadC d s) := by
  have hfull := full_advanceHeadC d s
  by_cases hv : v < 2 ^ s.dataW
  case neg =>
    rw [exec_push_of_tooWide hv, exec_push_of_tooWide (s := advanceHeadC d s) hv, andThen]
  case pos =>
    rcases hl with hr | hrun
    · rw [exec_push_of_inReset hv hr, exec_push_of_inReset (s := advanceHeadC d s) hv hr, andThen_next,
        respondP_then_syncHead (.inl hr) hd]
    · cases hf : full s <;> rw [hf] at hfull
      case true =>
        rw [exec_push_of_full hrun hv (full_eq_true_iff.1 hf),
          exec_push_of_full (s := advanceHeadC d s) hrun hv (full_eq_true_iff.1 hfull), andThen_next,
          respondP_then_syncHead (.inr hrun) hd]
      case false =>
        have hlag := hd.trans (headLag_le_enqueue h hrun hv hf)
        rw [exec_push_of_room hrun hv (full_eq_false_iff.1 hf),
          exec_push_of_room (s := advanceHeadC d s) hrun hv (full_eq_false_iff.1 hfull), andThen_next,
          respondP_then_syncHead (s := enqueue v s) (.inr hrun) hlag, advanceHeadC_enqueue h v hf hd]

theorem syncTail_commutes_cIdle (hd : d ≤ tailLag s) :
    andThen (exec .cIdle s) (exec (.syncTail d)) = exec .cIdle (advanceTailP d s) := by
  obtain ⟨c, hs, hu⟩ := cIdle_responds_alike hl (u := advanceTailP d s) rfl (empty_advanceTailP d s)
  rw [hs, hu, andThen_next, respondC_then_syncTail hl hd]

theorem syncHead_commutes_pIdle (hd : d ≤ headLag s) :
    andThen (exec .pIdle s) (exec (.syncHead d)) = exec .pIdle (advanceHeadC d s) := by
  obtain ⟨p, hs, hu⟩ := pIdle_responds_alike hl (u := advanceHeadC d s) rfl (full_advanceHeadC d s)
  rw [hs, hu, andThen_next, respondP_then_syncHead hl hd]

/-- Neither synchronising step moves the other's bound. -/
theorem syncTail_commutes_syncHead {e : Nat} (hd : d ≤ tailLag s) (he : e ≤ headLag s) :
    andThen (exec (.syncHead e) s) (exec (.syncTail d)) = exec (.syncHead e) (advanceTailP d s) := by
  rw [exec_syncHead_of_le hl he, exec_syncHead_of_le (s := advanceTailP d s) hl (he.trans headLag_advanceTailP.ge),
    andThen_next, exec_syncTail_of_le (s := advanceHeadC e s) hl (hd.trans (tailLag_advanceHeadC e s).ge),
    advanceTailP_advanceHeadC]

theorem syncHead_commutes_syncTail {e : Nat} (hd : d ≤ headLag s) (he : e ≤ tailLag s) :
    andThen (exec (.syncTail e) s) (exec (.syncHead d)) = exec (.syncTail e) (advanceHeadC d s) := by
  rw [exec_syncTail_of_le hl he, exec_syncTail_of_le (s := advanceHeadC d s) hl (he.trans (tailLag_advanceHeadC d s).ge),
    andThen_next, exec_syncHead_of_le (s := advanceTailP e s) hl (hd.trans headLag_advanceTailP.ge),
    advanceTailP_advanceHeadC]

/-- A `P_IDLE` shows the flag of the view that moves, so the orders agree in all but its response. -/
theorem syncTail_commutes_pIdle_but_response (hd : d ≤ tailLag s) :
    ∃ a b, andThen (exec .pIdle s) (exec (.syncTail d)) = .next a ∧ exec .pIdle (advanceTailP d s) = .next b ∧
      { a with pOut := b.pOut } = b := by
  obtain ⟨p, hs, -⟩ := pIdle_responds_alike hl rfl rfl
  obtain ⟨q, hu, -⟩ := pIdle_responds_alike (s := advanceTailP d s) hl rfl rfl
  rw [hs, hu, andThen_next, respondP_then_syncTail hl hd]
  exact ⟨_, _, rfl, rfl, rfl⟩

/-- The same of a `C_IDLE`. -/
theorem syncHead_commutes_cIdle_but_response (hd : d ≤ headLag s) :
    ∃ a b, andThen (exec .cIdle s) (exec (.syncHead d)) = .next a ∧ exec .cIdle (advanceHeadC d s) = .next b ∧
      { a with cOut := b.cOut } = b := by
  obtain ⟨c, hs, -⟩ := cIdle_responds_alike hl rfl rfl
  obtain ⟨q, hu, -⟩ := cIdle_responds_alike (s := advanceHeadC d s) hl rfl rfl
  rw [hs, hu, andThen_next, respondC_then_syncHead hl hd]
  exact ⟨_, _, rfl, rfl, rfl⟩

end orders

/-- Settles O28, operation by operation. Only a successful `POP` or `PUSH` needs the invariant: the cursor it moves is what
the step measures the stages of its chain against (`bringForward_of_cursor_advanced`). -/
theorem syncCommutesWithOtherSide : Obligations.SyncCommutesWithOtherSide := by
  intro d s h hl
  refine ⟨fun hd => ⟨advanceTailP d s, exec_syncTail_of_le hl hd, ?pop, ?cIdle, fun e he => ?syncHead, ?pIdle⟩,
    fun hd => ⟨advanceHeadC d s, exec_syncHead_of_le hl hd, ?push, ?pIdle', fun e he => ?syncTail, ?cIdle'⟩⟩
  case pop => exact syncTail_commutes_pop hl h hd
  case cIdle => exact syncTail_commutes_cIdle hl hd
  case syncHead => exact syncTail_commutes_syncHead hl hd he
  case pIdle => exact syncTail_commutes_pIdle_but_response hl hd
  case push => exact syncHead_commutes_push hl h hd
  case pIdle' => exact syncHead_commutes_pIdle hl hd
  case syncTail => exact syncHead_commutes_syncTail hl hd he
  case cIdle' => exact syncHead_commutes_cIdle_but_response hl hd

end Sys2Proof.Machine
end

section
/-! SUPPORT. The clock edges of the form `ASYNC` (43_sync.md): what a sample can be, what an edge does to the chains, and that
each edge is the command of its cycle followed by one synchronising step of the abstract machine. -/

namespace Sys2Proof.Safety

open Sys2Proof.Machine

/-! ## The sample (R196) -/

theorem sample_late {cur prev previousSample : Word} (h : previousSample ≠ cur) :
    sample cur prev previousSample true = prev := by
  simp [sample, h]

/-- The first stage of a chain is the code of a count between the view and the cursor. -/
theorem ChainOk.first {chain : List Word} {published seen : Nat} (h : ChainOk chain published seen) :
    ∃ m, chain.headD 0 = grayOfCount m ∧ seen ≤ m ∧ m ≤ published := by
  obtain ⟨counts, rfl, hm, hle, hl⟩ := h
  cases counts with
  | nil => cases hl
  | cons m older => exact ⟨m, rfl, getLast?_le hm hl m (by simp), hle m (by simp)⟩

/-- A sample is the code of the published count or, where it is late, of the one before, and never older than the sample
before it, since that one is late only where it is not the published count. -/
theorem sample_grayOfCount {prev : Word} {published m : Nat} (hprev : PrevOk prev published) (hm : m ≤ published)
    (late : Bool) :
    ∃ n, (n = published ∨ (late = true ∧ n + 1 = published)) ∧
      sample (grayOfCount published) prev (grayOfCount m) late = grayOfCount n ∧ m ≤ n := by
  unfold sample
  split
  case isFalse => exact ⟨published, .inl rfl, rfl, hm⟩
  case isTrue hlate =>
    obtain ⟨rfl, hnew⟩ : late = true ∧ grayOfCount m ≠ grayOfCount published := by simpa using hlate
    rcases hprev with rfl | ⟨n, rfl, rfl⟩
    · exact ⟨published, .inl rfl, rfl, hm⟩
    · have hne : m ≠ n + 1 := fun e => hnew (congrArg grayOfCount e)
      exact ⟨n, .inr ⟨rfl, rfl⟩, rfl, by omega⟩

/-- The same with the bounds of the chain (R40, R196). -/
theorem ChainOk.sample_eq {chain : List Word} {published seen : Nat} {prev : Word} (h : ChainOk chain published seen)
    (hprev : PrevOk prev published) (late : Bool) :
    ∃ n m, (n = published ∨ (late = true ∧ n + 1 = published)) ∧
      sample (grayOfCount published) prev (chain.headD 0) late = grayOfCount n ∧ chain.headD 0 = grayOfCount m ∧
      seen ≤ m ∧ m ≤ n := by
  obtain ⟨m, hfirst, hseen, hpub⟩ := h.first
  obtain ⟨n, hn, hsample, hmn⟩ := sample_grayOfCount hprev hpub late
  exact ⟨n, m, hn, hfirst ▸ hsample, hfirst, hseen, hmn⟩

/-- Settles O50: both chains are those of `ChainOk.sample_eq`; a late sample of a register that the chain has not sampled yet
is its value before by definition. -/
theorem sampleIsOldOrNewNeverOlder : Obligations.SampleIsOldOrNewNeverOlder := by
  intro late s r h hr
  have hx := h.crossingOk
  rw [hr] at hx
  obtain ⟨hhead, htail, hhprev, htprev, -, -, hts, hhs⟩ := hx
  rw [hhead, htail]
  exact ⟨hhs.sample_eq hhprev late, hts.sample_eq htprev late, fun _ => sample_late, fun _ => sample_late⟩

/-! ## The chains at an edge (R194, R195) -/

theorem shiftChain_zero (v : Word) {chain : List Word} (hne : chain ≠ []) : (shiftChain v chain)[0]? = some v := by
  rw [shiftChain, List.getElem?_take_of_lt (List.length_pos_iff.2 hne), List.getElem?_cons_zero]

theorem shiftChain_succ (v : Word) {chain : List Word} {j : Nat} (hj : j + 1 < chain.length) :
    (shiftChain v chain)[j + 1]? = chain[j]? := by
  rw [shiftChain, List.getElem?_take_of_lt hj, List.getElem?_cons_succ]

theorem lastStage_of_getElem? {chain : List Word} {g : Word} (h : chain[chain.length - 1]? = some g) :
    lastStage chain = g := by
  rw [lastStage, List.getLastD_eq_getLast?, List.getLast?_eq_getElem?, h, Option.getD_some]

section registers
variable {i : Instr} {s t : State} {r : AsyncRegs}

/-- The registers of `ASYNC` that a producer's operation can change. -/
theorem producerStep_registers (h : ProducerStep s i t) (hr : s.crossing = .async r) :
    ∃ g q, t.crossing = .async { r with headGray := g, headGrayPrev := q } := by
  cases h with
  | responds => exact ⟨_, _, hr⟩
  | enqueues => exact ⟨_, _, congrArg (Crossing.publishHead (s.head + 1)) hr⟩

/-- The registers of `ASYNC` that a consumer's operation can change. -/
theorem consumerStep_registers (h : ConsumerStep s i t) (hr : s.crossing = .async r) :
    ∃ g q, t.crossing = .async { r with tailGray := g, tailGrayPrev := q } := by
  cases h with
  | responds => exact ⟨_, _, hr⟩
  | dequeues => exact ⟨_, _, congrArg (Crossing.publishTail (s.tail + 1)) hr⟩

/-- An edge of `wclk` shifts the chain `ts` as it was before the edge: the cycle's command does not touch what the shift
reads. -/
theorem wclkEdge_registers {pc : Nat} {late : Bool} (hr : s.crossing = .async r) (e : wclkEdge pc late s = .next t) :
    ∃ g q, t.crossing = .async (AsyncRegs.shiftTs late { r with headGray := g, headGrayPrev := q }) := by
  obtain ⟨-, r₀, p, r', hr₀, hp, hr', rfl⟩ := wclkEdge_eq_next.1 e
  obtain rfl : r = r₀ := Crossing.async.inj (hr.symm.trans hr₀)
  obtain ⟨g, q, hregs⟩ := producerStep_registers (producerStep_of_exec (agent_decodePC _ _) hp) rfl
  obtain rfl := Crossing.async.inj (hr'.symm.trans hregs)
  exact ⟨g, q, rfl⟩

theorem rclkEdge_registers {cc : Nat} {late : Bool} (hr : s.crossing = .async r) (e : rclkEdge cc late s = .next t) :
    ∃ g q, t.crossing = .async (AsyncRegs.shiftHs late { r with tailGray := g, tailGrayPrev := q }) := by
  obtain ⟨-, r₀, c, r', hr₀, hc, hr', rfl⟩ := rclkEdge_eq_next.1 e
  obtain rfl : r = r₀ := Crossing.async.inj (hr.symm.trans hr₀)
  obtain ⟨g, q, hregs⟩ := consumerStep_registers (consumerStep_of_exec (agent_decodeCC _) hc) rfl
  obtain rfl := Crossing.async.inj (hr'.symm.trans hregs)
  exact ⟨g, q, rfl⟩

end registers

/-- Settles O52: an edge shifts the registers as they were (`wclkEdge_registers`, `rclkEdge_registers`), and the stages of a
shifted chain are those of `shiftChain_zero` and `shiftChain_succ`. -/
theorem edgesShiftOwnChain : Obligations.EdgesShiftOwnChain := by
  refine ⟨fun s r hr => ⟨fun g hg => ?_, fun g hg => ?_⟩, fun pc late s t r hr e => ?_, fun cc late s t r hr e => ?_⟩
  · rw [headC_of_async hr, lastStage_of_getElem? hg]
  · rw [tailP_of_async hr, lastStage_of_getElem? hg]
  · obtain ⟨g, q, ht⟩ := wclkEdge_registers hr e
    refine ⟨_, ht, rfl, shiftChain_length _ _, fun _ => shiftChain_succ _, shiftChain_zero _, fun hlate hne => ?_⟩
    exact hlate ▸ shiftChain_zero _ hne
  · obtain ⟨g, q, ht⟩ := rclkEdge_registers hr e
    refine ⟨_, ht, rfl, shiftChain_length _ _, fun _ => shiftChain_succ _, shiftChain_zero _, fun hlate hne => ?_⟩
    exact hlate ▸ shiftChain_zero _ hne

/-! ## An edge as abstract steps (R199) -/

/-- Where a state differs from another in `tail_p` alone, a `SYNC_TAIL` of that difference leads to a state that looks like
the other, whose invariant bounds the step (R185). -/
theorem syncTail_reaches {a t : State} {d : Nat} (ha : BlockInv a) (ht : BlockInv t)
    (hl : a.life = .inReset ∨ a.life = .running) (h : stored (advanceTailP d a) = stored t) :
    ∃ w, exec (.syncTail d) a = .next w ∧ abstract w = abstract t := by
  obtain ⟨a2, a3, e2, -, -⟩ := syncSteps_reach (e := 0) ha ht hl h
  obtain ⟨-, hd, rfl⟩ := execSyncTail_eq_next.1 e2
  exact ⟨_, e2, abstract_eq_of_stored_eq (ha.tailP_advanced hd) ht h⟩

/-- The same of `head_c` and `SYNC_HEAD` (R186). -/
theorem syncHead_reaches {a t : State} {d : Nat} (ha : BlockInv a) (ht : BlockInv t)
    (hl : a.life = .inReset ∨ a.life = .running) (h : stored (advanceHeadC d a) = stored t) :
    ∃ w, exec (.syncHead d) a = .next w ∧ abstract w = abstract t := by
  have hg : { a.ghost with hc := a.ghost.hc + d } = t.ghost := congrArg Abstract.ghost h
  have hhc := ht.hcLePushed
  rw [← hg] at hhc
  have hd : d ≤ headLag a := by rw [ha.headLag_eq]; exact Nat.le_sub_of_add_le' hhc
  exact ⟨_, execSyncHead_eq_next.2 ⟨hl, hd, rfl⟩, abstract_eq_of_stored_eq (ha.headC_advanced hd) ht h⟩

/-- A command of a caller does not read the registers kept for the samples (R196): with others in their place it does the
same to what the abstract machine stores. -/
theorem exec_of_withAsync {i : Instr} {s p : State} {r : AsyncRegs} {headGray headGrayPrev tailGray tailGrayPrev : Word}
    (hr : s.crossing = .async r) (hi : i.agent = .producer ∨ i.agent = .consumer)
    (e : exec i (withAsync ⟨headGray, headGrayPrev, tailGray, tailGrayPrev, r.ts, r.hs⟩ s) = .next p) :
    ∃ u, exec i s = .next u ∧ (u.life = .inReset ∨ u.life = .running) ∧ stored u = stored p := by
  obtain ⟨capacity, indexMask, dataW, head, tail, storage, crossing, life, pOut, cOut, ghost, inputs⟩ := s
  obtain rfl : crossing = .async r := hr
  cases i with
  | push v =>
    obtain ⟨hv, ⟨hl, rfl⟩ | ⟨hl, ⟨hf, rfl⟩ | ⟨hf, rfl⟩⟩⟩ := execPush_eq_next.1 e
    · exact ⟨_, execPush_eq_next.2 ⟨hv, .inl ⟨hl, rfl⟩⟩, .inl hl, rfl⟩
    · exact ⟨_, execPush_eq_next.2 ⟨hv, .inr ⟨hl, .inl ⟨hf, rfl⟩⟩⟩, .inr hl, rfl⟩
    · exact ⟨_, execPush_eq_next.2 ⟨hv, .inr ⟨hl, .inr ⟨hf, rfl⟩⟩⟩, .inr hl, rfl⟩
  | pIdle =>
    obtain ⟨hl, rfl⟩ | ⟨hl, rfl⟩ := execPIdle_eq_next.1 e
    · exact ⟨_, execPIdle_eq_next.2 (.inl ⟨hl, rfl⟩), .inl hl, rfl⟩
    · exact ⟨_, execPIdle_eq_next.2 (.inr ⟨hl, rfl⟩), .inr hl, rfl⟩
  | pop =>
    obtain ⟨hl, rfl⟩ | ⟨hl, ⟨he, rfl⟩ | ⟨he, rfl⟩⟩ := execPop_eq_next.1 e
    · exact ⟨_, execPop_eq_next.2 (.inl ⟨hl, rfl⟩), .inl hl, rfl⟩
    · exact ⟨_, execPop_eq_next.2 (.inr ⟨hl, .inl ⟨he, rfl⟩⟩), .inr hl, rfl⟩
    · exact ⟨_, execPop_eq_next.2 (.inr ⟨hl, .inr ⟨he, rfl⟩⟩), .inr hl, rfl⟩
  | cIdle =>
    obtain ⟨hl, rfl⟩ | ⟨hl, rfl⟩ := execCIdle_eq_next.1 e
    · exact ⟨_, execCIdle_eq_next.2 (.inl ⟨hl, rfl⟩), .inl hl, rfl⟩
    · exact ⟨_, execCIdle_eq_next.2 (.inr ⟨hl, rfl⟩), .inr hl, rfl⟩
  | _ => simp [Instr.agent] at hi

/-- The chain's part of an edge of `wclk` is, to what the abstract machine stores, a step of `ST` by the change of the
view. -/
theorem stored_shiftTs {u p : State} (h : stored u = stored p) (late : Bool) (r : AsyncRegs) :
    stored (advanceTailP (gray2bin (lastStage (r.shiftTs late).ts) - gray2bin (lastStage r.ts)).toNat u) =
      stored (shiftTs late r p) :=
  congrArg (fun x => { x with ghost := { x.ghost with
    tp := x.ghost.tp + (gray2bin (lastStage (r.shiftTs late).ts) - gray2bin (lastStage r.ts)).toNat } }) h

/-- The same of an edge of `rclk` and a step of `SH`. -/
theorem stored_shiftHs {u c : State} (h : stored u = stored c) (late : Bool) (r : AsyncRegs) :
    stored (advanceHeadC (gray2bin (lastStage (r.shiftHs late).hs) - gray2bin (lastStage r.hs)).toNat u) =
      stored (shiftHs late r c) :=
  congrArg (fun x => { x with ghost := { x.ghost with
    hc := x.ghost.hc + (gray2bin (lastStage (r.shiftHs late).hs) - gray2bin (lastStage r.hs)).toNat } }) h

section edges
variable {s t : State} {late : Bool} (h : BlockInv s)
include h

theorem wclkEdge_is_abstract_steps {pc : Nat} (e : wclkEdge pc late s = .next t) :
    ∃ u w, exec (decodePC s.dataW pc) s = .next u ∧ exec (.syncTail (tailP t - tailP s).toNat) u = .next w ∧
      abstract w = abstract t := by
  have ht := h.wclkEdge e
  obtain ⟨-, r, p, r', hr, hp, hr', rfl⟩ := wclkEdge_eq_next.1 e
  obtain ⟨u, hu, hl, hst⟩ := exec_of_withAsync hr (.inl (agent_decodePC _ _)) hp
  obtain ⟨g, q, hregs⟩ := producerStep_registers (producerStep_of_exec (agent_decodePC _ _) hp) rfl
  obtain rfl := Crossing.async.inj (hr'.symm.trans hregs)
  rw [tailP_of_async hr]
  obtain ⟨w, hw, habs⟩ := syncTail_reaches (h.exec hu) ht hl (stored_shiftTs hst late _)
  exact ⟨u, w, hu, hw, habs⟩

theorem rclkEdge_is_abstract_steps {cc : Nat} (e : rclkEdge cc late s = .next t) :
    ∃ u w, exec (decodeCC cc) s = .next u ∧ exec (.syncHead (headC t - headC s).toNat) u = .next w ∧
      abstract w = abstract t := by
  have ht := h.rclkEdge e
  obtain ⟨-, r, c, r', hr, hc, hr', rfl⟩ := rclkEdge_eq_next.1 e
  obtain ⟨u, hu, hl, hst⟩ := exec_of_withAsync hr (.inr (agent_decodeCC _)) hc
  obtain ⟨g, q, hregs⟩ := consumerStep_registers (consumerStep_of_exec (agent_decodeCC _) hc) rfl
  obtain rfl := Crossing.async.inj (hr'.symm.trans hregs)
  rw [headC_of_async hr]
  obtain ⟨w, hw, habs⟩ := syncHead_reaches (h.exec hu) ht hl (stored_shiftHs hst late _)
  exact ⟨u, w, hu, hw, habs⟩

end edges

/-- Settles O51: the command does the same to the state before the edge (`exec_of_withAsync`), and the shift of the chain is
a synchronising step that the invariant after the edge bounds (`syncTail_reaches`, `syncHead_reaches`). -/
theorem clockEdgesAreAbstractSteps : Obligations.ClockEdgesAreAbstractSteps :=
  ⟨fun _ _ _ _ h e => wclkEdge_is_abstract_steps h e, fun _ _ _ _ h e => rclkEdge_is_abstract_steps h e⟩

end Sys2Proof.Safety
end

section
/-! SUPPORT. What can raise an exception (60_exceptions.md): for each operation and each kind of input, the faults it can stop
with. Everything but `CONSTRUCT` has none, and no port carries the word of a `CONSTRUCT`. -/

namespace Sys2Proof

/-- The reset input at 0 is `RESET`, at 1 nothing (R97, R99). -/
theorem decode_rs {w : Nat} (dw : Nat) (h : w < 2 ^ Format.width dw .rs) :
    decode dw ⟨.rs, w⟩ = if w = 0 then .ok .reset else .error .resetNotAsserted := if_pos h

/-- The word of a `CONSTRUCT` is the elaboration parameter, which no port carries (R97, R99). -/
theorem format_of_decode_construct {dw : Nat} {w : CommandWord} {c : Word} (h : decode dw w = .ok (.construct c)) :
    w.format = .k := by
  obtain ⟨format, bits⟩ := w
  rcases lt_or_ge bits (2 ^ format.width dw) with hfits | hwide
  · cases format with
    | k => rfl
    | rs =>
      rw [decode_rs dw hfits] at h
      split at h <;> cases h
    | pc =>
      rw [decode_pc hfits] at h
      obtain ⟨v, -, e⟩ | e := Machine.decodePC_cases dw bits <;> rw [e] at h <;> cases h
    | cc =>
      rw [decode_cc dw hfits] at h
      obtain e | e := Machine.decodeCC_cases bits <;> rw [e] at h <;> cases h
    | none => cases (if_pos hfits).symm.trans h
  · cases (decode_tooWide hwide).symm.trans h

end Sys2Proof

namespace Sys2Proof.Machine

/-! ## The operations -/

section operations
variable {s : State} {f : Fault}

/-- Everything a `CONSTRUCT` can raise, and when it does (R120, R124). -/
theorem execConstruct_eq_fault {c : Word} :
    execConstruct c s = .fault f ↔ legalCapacity c = false ∧ s.life = .elaborating ∧ f = .configError c := by
  rw [execConstruct_eq]
  by_cases hl : s.life = .elaborating
  · by_cases hc : legalCapacity c = true <;> simp [hl, hc, eq_comm]
  · simp [hl]

theorem execReset_ne_fault : execReset s ≠ .fault f := by
  unfold execReset
  split <;> nofun

theorem execPush_ne_fault (v : Slot) : execPush v s ≠ .fault f := by
  unfold execPush
  split
  · exact atPort_ne_fault nofun
  · nofun

theorem execSyncTail_ne_fault (d : Nat) : execSyncTail d s ≠ .fault f :=
  ifReset_ne_fault (by split <;> nofun)

theorem execSyncHead_ne_fault (d : Nat) : execSyncHead d s ≠ .fault f :=
  ifReset_ne_fault (by split <;> nofun)

/-- The only operation that raises anything is a `CONSTRUCT` (R213). -/
theorem exec_eq_fault {i : Instr} (h : exec i s = .fault f) :
    ∃ c, i = .construct c ∧ legalCapacity c = false ∧ s.life = .elaborating ∧ f = .configError c := by
  cases i with
  | construct c => exact ⟨c, rfl, execConstruct_eq_fault.1 h⟩
  | reset => exact absurd h execReset_ne_fault
  | push v => exact absurd h (execPush_ne_fault v)
  | pIdle => exact absurd h (atPort_ne_fault nofun)
  | pop => exact absurd h (atPort_ne_fault nofun)
  | cIdle => exact absurd h (atPort_ne_fault nofun)
  | syncTail d => exact absurd h (execSyncTail_ne_fault d)
  | syncHead d => exact absurd h (execSyncHead_ne_fault d)

end operations

/-! ## The inputs -/

section inputs
variable {s : State} {f : Fault}

/-- A command word that raises something selects an operation, which raises it: the decoder itself only refuses (R99). -/
theorem runCommand_eq_fault {w : CommandWord} :
    runCommand w s = .fault f ↔ ∃ i, decode s.dataW w = .ok i ∧ exec i s = .fault f := by
  unfold runCommand
  cases decode s.dataW w <;> simp

/-- A word at a port or at the reset input raises nothing (R213). -/
theorem runCommand_ne_fault {w : CommandWord} (hw : w.format ≠ .k) : runCommand w s ≠ .fault f := by
  intro h
  obtain ⟨i, hi, hf⟩ := runCommand_eq_fault.1 h
  obtain ⟨c, rfl, -⟩ := exec_eq_fault hf
  exact hw (format_of_decode_construct hi)

theorem clkCycle_ne_fault (pc cc : Nat) : clkCycle pc cc s ≠ .fault f := by
  unfold clkCycle
  split
  · simp [andThen_eq_fault, runCommand_ne_fault]
  · nofun

theorem wclkEdge_ne_fault (pc : Nat) (late : Bool) : wclkEdge pc late s ≠ .fault f := by
  unfold wclkEdge
  split
  · nofun
  · intro h
    obtain h | ⟨p, -, h⟩ := andThen_eq_fault.1 h
    · exact absurd h (runCommand_ne_fault nofun)
    · split at h <;> cases h

theorem rclkEdge_ne_fault (cc : Nat) (late : Bool) : rclkEdge cc late s ≠ .fault f := by
  unfold rclkEdge
  split
  · nofun
  · intro h
    obtain h | ⟨c, -, h⟩ := andThen_eq_fault.1 h
    · exact absurd h (runCommand_ne_fault nofun)
    · split at h <;> cases h

theorem lowerReset_ne_fault (p c : Instr) : lowerReset p c s ≠ .fault f := by
  unfold lowerReset
  split
  · nofun
  · nofun
  · split <;> nofun
  · split <;> nofun

theorem resetCycle_ne_fault (pc cc : Nat) : resetCycle pc cc s ≠ .fault f := by
  unfold resetCycle
  split
  · nofun
  · split
    · nofun
    · exact lowerReset_ne_fault _ _

theorem raiseReset_ne_fault : raiseReset s ≠ .fault f := ifReset_ne_fault nofun

/-- The only input that raises anything is a command word that selects a `CONSTRUCT` (R213). -/
theorem runInput_eq_fault {x : Input} (h : runInput x s = .fault f) :
    ∃ w c, x = .command w ∧ decode s.dataW w = .ok (.construct c) ∧ legalCapacity c = false ∧ s.life = .elaborating ∧
      f = .configError c := by
  cases x with
  | command w =>
    obtain ⟨i, hi, hf⟩ := runCommand_eq_fault.1 h
    obtain ⟨c, rfl, hc⟩ := exec_eq_fault hf
    exact ⟨w, c, rfl, hi, hc⟩
  | st d => exact absurd h (execSyncTail_ne_fault d)
  | sh d => exact absurd h (execSyncHead_ne_fault d)
  | clk pc cc => exact absurd h (clkCycle_ne_fault pc cc)
  | wclk pc late => exact absurd h (wclkEdge_ne_fault pc late)
  | rclk cc late => exact absurd h (rclkEdge_ne_fault cc late)
  | resetLow pc cc => exact absurd h (resetCycle_ne_fault pc cc)
  | resetHigh => exact absurd h raiseReset_ne_fault

theorem step_eq_fault (h : step s = .fault f) :
    ∃ w rest c, s.inputs = .command w :: rest ∧ decode s.dataW w = .ok (.construct c) ∧ legalCapacity c = false ∧
      s.life = .elaborating ∧ f = .configError c := by
  cases hin : s.inputs with
  | nil =>
    rw [step_nil hin] at h
    cases h
  | cons x rest =>
    rw [step_cons hin] at h
    obtain ⟨w, c, rfl, hc⟩ := runInput_eq_fault h
    exact ⟨w, rest, c, rfl, hc⟩

end inputs

/-- Settles O13: an operation raises only what a `CONSTRUCT` does (`exec_eq_fault`), and a step only what the operation its
command word selects does (`step_eq_fault`). -/
theorem onlyConstructRaises : Obligations.OnlyConstructRaises :=
  ⟨fun _ _ _ => exec_eq_fault, fun _ _ => step_eq_fault⟩

end Sys2Proof.Machine
end

section
/-! SUPPORT. A caller's command as a function of the state it meets (R258, R261): what it does is decided by the few things
its side sees, so it does the same to any state that shows the same; and a cycle of `SYNC` as two such commands. -/

namespace Sys2Proof.Machine

open Sys2Proof.Safety

/-- What a producer's command does, once its response and whether it stores are decided. -/
inductive ProducerEffect : (State → State) → Prop
  | responds (a : PResponse) : ProducerEffect (respondP a)
  | stores (a : PResponse) (v : Slot) : ProducerEffect fun u => respondP a (enqueue v u)

/-- What a consumer's command does, once its response and whether it takes a value are decided. -/
inductive ConsumerEffect : (State → State) → Prop
  | responds (b : CResponse) : ConsumerEffect (respondC b)
  | takes (b : CResponse) : ConsumerEffect fun u => respondC b (dequeue u)

section effects
variable {i : Instr} {s t : State} {f g : State → State}

theorem ProducerEffect.pOut_eq (hf : ProducerEffect f) (s u : State) : (f s).pOut = (f u).pOut := by cases hf <;> rfl

theorem ConsumerEffect.cOut_eq (hg : ConsumerEffect g) (s u : State) : (g s).cOut = (g u).cOut := by cases hg <;> rfl

/-- A producer's command that answers is one for the `DATA_W` it meets (R135). -/
theorem wf_of_exec_producer (hi : i.agent = .producer) (e : exec i s = .next t) : i.wf s.dataW = true := by
  cases i with
  | push v => exact decide_eq_true (execPush_eq_next.1 e).1
  | pIdle => rfl
  | _ => cases hi

/-- A producer's command does the same to every state as far in its life that shows the same `full` (R145, R261). -/
theorem exec_producer_alike (hi : i.agent = .producer) (e : exec i s = .next t) :
    ∃ f, ProducerEffect f ∧ t = f s ∧
      ∀ u, i.wf u.dataW = true → u.life = s.life → full u = full s → exec i u = .next (f u) := by
  cases i with
  | push v =>
    obtain ⟨-, ⟨hl, rfl⟩ | ⟨hl, ⟨hf, rfl⟩ | ⟨hf, rfl⟩⟩⟩ := execPush_eq_next.1 e
    · exact ⟨_, .responds _, rfl, fun u hv hlife _ =>
        execPush_eq_next.2 ⟨of_decide_eq_true hv, .inl ⟨hlife.trans hl, rfl⟩⟩⟩
    · exact ⟨_, .responds _, rfl, fun u hv hlife hfull =>
        execPush_eq_next.2 ⟨of_decide_eq_true hv, .inr ⟨hlife.trans hl, .inl ⟨hfull.trans hf, rfl⟩⟩⟩⟩
    · exact ⟨_, .stores _ v, rfl, fun u hv hlife hfull =>
        execPush_eq_next.2 ⟨of_decide_eq_true hv, .inr ⟨hlife.trans hl, .inr ⟨hfull.trans hf, rfl⟩⟩⟩⟩
  | pIdle =>
    obtain ⟨hl, rfl⟩ | ⟨hl, rfl⟩ := execPIdle_eq_next.1 e
    · exact ⟨_, .responds _, rfl, fun u _ hlife _ => execPIdle_eq_next.2 (.inl ⟨hlife.trans hl, rfl⟩)⟩
    · exact ⟨_, .responds _, rfl, fun u _ hlife hfull =>
        execPIdle_eq_next.2 (.inr ⟨hlife.trans hl, by rw [hfull]⟩)⟩
  | _ => cases hi

/-- A consumer's command does the same to every state as far in its life that shows the same `empty` and the same content
of the slot it addresses (R170, R261). -/
theorem exec_consumer_alike (hi : i.agent = .consumer) (e : exec i s = .next t) :
    ∃ g, ConsumerEffect g ∧ t = g s ∧
      ∀ u, u.life = s.life → empty u = empty s → memRead (readIndex u) u = memRead (readIndex s) s →
        exec i u = .next (g u) := by
  cases i with
  | pop =>
    obtain ⟨hl, rfl⟩ | ⟨hl, ⟨he, rfl⟩ | ⟨he, rfl⟩⟩ := execPop_eq_next.1 e
    · exact ⟨_, .responds _, rfl, fun u hlife _ _ => execPop_eq_next.2 (.inl ⟨hlife.trans hl, rfl⟩)⟩
    · exact ⟨_, .responds _, rfl, fun u hlife hempty _ =>
        execPop_eq_next.2 (.inr ⟨hlife.trans hl, .inl ⟨hempty.trans he, rfl⟩⟩)⟩
    · exact ⟨_, .takes _, rfl, fun u hlife hempty hread =>
        execPop_eq_next.2 (.inr ⟨hlife.trans hl, .inr ⟨hempty.trans he, by rw [hread]⟩⟩)⟩
  | cIdle =>
    obtain ⟨hl, rfl⟩ | ⟨hl, rfl⟩ := execCIdle_eq_next.1 e
    · exact ⟨_, .responds _, rfl, fun u hlife _ _ => execCIdle_eq_next.2 (.inl ⟨hlife.trans hl, rfl⟩)⟩
    · exact ⟨_, .responds _, rfl, fun u hlife hempty _ =>
        execCIdle_eq_next.2 (.inr ⟨hlife.trans hl, by rw [hempty]⟩)⟩
  | _ => cases hi

/-! ## A cycle of `SYNC` (R258) -/

/-- The merge of both sides is the consumer's command and then the producer's: neither writes what the other does. -/
theorem mergeSides_effects (hx : s.crossing = .sync) (hf : ProducerEffect f) (hg : ConsumerEffect g) :
    mergeSides s (f s) (g s) = f (g s) := by
  obtain ⟨capacity, indexMask, dataW, head, tail, storage, crossing, life, pOut, cOut, ghost, inputs⟩ := s
  obtain rfl : crossing = .sync := hx
  cases hf <;> cases hg <;> rfl

/-- The two sides can go in either order when the producer leaves the slot that the consumer reads: the ghost `OUT` takes the
value from there. -/
theorem effects_commute (hx : s.crossing = .sync) (hf : ProducerEffect f) (hg : ConsumerEffect g)
    (hread : memRead (readIndex (f s)) (f s) = memRead (readIndex s) s) : g (f s) = f (g s) := by
  obtain ⟨capacity, indexMask, dataW, head, tail, storage, crossing, life, pOut, cOut, ghost, inputs⟩ := s
  obtain rfl : crossing = .sync := hx
  cases hf with
  | responds a => cases hg <;> rfl
  | stores a v =>
    cases hg with
    | responds b => rfl
    | takes b =>
      beta_reduce at hread ⊢
      unfold dequeue
      rw [hread]
      rfl

end effects

section cycle
variable {i : Instr} {s p : State} (h : BlockInv s)
include h

/-- A producer's command does not empty the buffer (R149). -/
theorem not_empty_of_producerStep (hp : ProducerStep s i p) (he : empty s = false) : empty p = false := by
  have hinv := h.producerStep hp
  have hvalue := h.lt_of_not_empty he
  have hmono : p.ghost.popped = s.ghost.popped ∧ s.ghost.hc ≤ p.ghost.hc := by
    cases hp with
    | responds => exact ⟨rfl, le_rfl⟩
    | enqueues => exact ⟨rfl, Nat.le_add_right _ _⟩
  obtain ⟨hpopped, hhc⟩ := hmono
  rw [Bool.eq_false_iff, ne_eq, hinv.empty_iff]
  omega

/-- A producer's command leaves the value that the consumer sees (R69). -/
theorem memRead_readIndex_of_producerStep (hp : ProducerStep s i p) (he : empty s = false) :
    memRead (readIndex p) p = memRead (readIndex s) s := by
  cases hp with
  | responds => rfl
  | @enqueues v _ _ hf =>
    have hne := (writeAndReadSlotsDiffer s h hf he).symm
    exact (memRead_enqueue h.storageCanonical (readIndex s)).trans (if_neg hne)

end cycle

/-- Settles O44: both commands do from the state the other leaves what they do from the start of the cycle. With a value in
view the producer's goes first, and leaves that value; with room the consumer's goes first, and leaves the room. -/
theorem syncCycleIsTwoAtomicSteps : Obligations.SyncCycleIsTwoAtomicSteps := by
  intro pc cc s t h e
  obtain ⟨hx, -, -, p, c, hp, hc, rfl⟩ := clkCycle_eq_next.1 e
  have hstepP := producerStep_of_exec (agent_decodePC _ _) hp
  have hstepC := consumerStep_of_exec (agent_decodeCC _) hc
  obtain ⟨-, -, -, -, hlifeP, -, -⟩ := exec_decodePC_frame hp
  obtain ⟨-, -, hw, -, -, hlifeC, -, -⟩ := exec_decodeCC_frame hc
  have hwf := wf_of_exec_producer (agent_decodePC _ _) hp
  obtain ⟨f, hf, rfl, hp'⟩ := exec_producer_alike (agent_decodePC _ _) hp
  obtain ⟨g, hg, rfl, hc'⟩ := exec_consumer_alike (agent_decodeCC _) hc
  rw [mergeSides_effects hx hf hg]
  refine ⟨fun hempty => andThen_eq_next.2 ⟨f s, hp, ?_⟩, fun hfull => andThen_eq_next.2 ⟨g s, hc, ?_⟩⟩
  · have hread := memRead_readIndex_of_producerStep h hstepP hempty
    rw [← effects_commute hx hf hg hread]
    exact hc' _ hlifeP ((not_empty_of_producerStep h hstepP hempty).trans hempty.symm) hread
  · exact hp' _ (hw.symm ▸ hwf) hlifeC ((h.not_full_of_consumerStep hstepC hfull).trans hfull.symm)

/-! ## Each side's response (R261) -/

/-- Settles O43: what decides a response (`exec_producer_alike`, `exec_consumer_alike`) is the same in both states; in a cycle
of `SYNC` each side's command runs from the start of the cycle, whatever the other's. -/
theorem responsesStayOnTheirSide : Obligations.ResponsesStayOnTheirSide := by
  refine ⟨?producer, ?consumer, ?cycle⟩
  case producer =>
    intro i s s' t t' hi hhead hview hcap hlife e e'
    have hfull : full s' = full s := by rw [full, full, hhead, hview, hcap]
    obtain ⟨f, hf, rfl, hs'⟩ := exec_producer_alike hi e
    cases e'.symm.trans (hs' s' (wf_of_exec_producer hi e') hlife.symm hfull)
    exact hf.pOut_eq s s'
  case consumer =>
    intro i s s' t t' hi htail hview _ hread hlife e e'
    have hempty : empty s' = empty s := by rw [empty, empty, htail, hview]
    obtain ⟨g, hg, rfl, hs'⟩ := exec_consumer_alike hi e
    cases e'.symm.trans (hs' s' hlife.symm hempty hread.symm)
    exact hg.cOut_eq s s'
  case cycle =>
    intro pc pc' cc cc' s t u w et eu ew
    obtain ⟨-, -, -, p, c, hp, hc, rfl⟩ := clkCycle_eq_next.1 et
    obtain ⟨-, -, -, p', c', hp', -, rfl⟩ := clkCycle_eq_next.1 eu
    obtain ⟨-, -, -, p'', c'', -, hc'', rfl⟩ := clkCycle_eq_next.1 ew
    cases hp.symm.trans hp'
    cases hc.symm.trans hc''
    exact ⟨rfl, rfl⟩

end Sys2Proof.Machine
end

section
/-! SUPPORT. A push and a pop in one cycle of `SYNC` (R258, R262), in counts. -/

namespace Sys2Proof

section decode
variable {dw w : Nat} {i : Instr}

theorem decode_pc_eq_ok : decode dw ⟨.pc, w⟩ = .ok i ↔ w < 2 ^ Format.width dw .pc ∧ decodePC dw w = i := by
  by_cases h : w < 2 ^ Format.width dw .pc
  · simp [decode_pc h, h]
  · simp [decode_tooWide (w := ⟨.pc, w⟩) (not_lt.1 h), h]

theorem decode_cc_eq_ok : decode dw ⟨.cc, w⟩ = .ok i ↔ w < 2 ^ Format.width dw .cc ∧ decodeCC w = i := by
  by_cases h : w < 2 ^ Format.width dw .cc
  · simp [decode_cc dw h, h]
  · simp [decode_tooWide (w := ⟨.cc, w⟩) (not_lt.1 h), h]

end decode

end Sys2Proof

namespace Sys2Proof.Safety

open Sys2Proof.Machine

/-- The counts a `PUSH` moves on a running block (R135, R138). -/
theorem exec_push_counts {v : Slot} {s p : State} (hrun : s.life = .running) (e : exec (.push v) s = .next p) :
    p.pOut.pushOk = !full s ∧ p.ghost.pushed = s.ghost.pushed + (!full s).toNat := by
  obtain ⟨-, ⟨hl, -⟩ | ⟨-, ⟨hf, rfl⟩ | ⟨hf, rfl⟩⟩⟩ := execPush_eq_next.1 e
  · exact not_inReset_of_running hrun hl
  · rw [hf]
    exact ⟨rfl, rfl⟩
  · rw [hf]
    exact ⟨rfl, rfl⟩

/-- The counts a `POP` moves on a running block (R160, R163). -/
theorem exec_pop_counts {s c : State} (hrun : s.life = .running) (e : exec .pop s = .next c) :
    c.cOut.popOk = !empty s ∧ c.ghost.popped = s.ghost.popped + (!empty s).toNat := by
  obtain ⟨hl, -⟩ | ⟨-, ⟨he, rfl⟩ | ⟨he, rfl⟩⟩ := execPop_eq_next.1 e
  · exact not_inReset_of_running hrun hl
  · rw [he]
    exact ⟨rfl, rfl⟩
  · rw [he]
    exact ⟨rfl, rfl⟩

section sync
variable {s : State} (h : BlockInv s) (hx : s.crossing = .sync)
include h hx

/-- In `SYNC` a view's count is its cursor's (R25, R26). -/
theorem BlockInv.views_of_sync : s.ghost.hc = s.ghost.pushed ∧ s.ghost.tp = s.ghost.popped := by
  have hok := h.crossingOk
  rwa [hx] at hok

/-- In `SYNC` the flags are exact (R39). -/
theorem BlockInv.full_of_sync : full s = decide (fill s = depth s) := by
  obtain ⟨-, htp⟩ := h.views_of_sync hx
  have hle := h.popped_le_pushed
  rw [Bool.eq_iff_iff, decide_eq_true_eq, h.full_iff, h.fill_eq, htp]
  omega

theorem BlockInv.empty_of_sync : empty s = decide (fill s = 0) := by
  obtain ⟨hhc, -⟩ := h.views_of_sync hx
  have hle := h.popped_le_pushed
  rw [Bool.eq_iff_iff, decide_eq_true_eq, h.empty_iff, h.fill_eq, hhc]
  omega

/-- In `SYNC` a buffer is not full and empty at once. -/
theorem BlockInv.not_full_or_not_empty : full s = false ∨ empty s = false := by
  have hpos := h.depth_pos
  rw [h.full_of_sync hx, h.empty_of_sync hx, decide_eq_false_iff_not, decide_eq_false_iff_not]
  omega

end sync

theorem region_eq_partlyFilled_iff {s : State} : region s = .partlyFilled ↔ fill s ≠ 0 ∧ fill s ≠ depth s := by
  have hempty := region_eq_empty_iff (s := s)
  have hfull := region_eq_full_iff (s := s)
  cases hr : region s <;> simp_all

/-- A cycle of `SYNC` with a push and a pop: each flag at its start decides its own side's response, and the fill changes by
what both sides did (R258). -/
theorem clkCycle_push_pop {v : Slot} {pc cc : Nat} {s : State} (h : BlockInv s) (hrun : s.life = .running)
    (hx : s.crossing = .sync) (hpc : decode s.dataW ⟨.pc, pc⟩ = .ok (.push v))
    (hcc : decode s.dataW ⟨.cc, cc⟩ = .ok .pop) :
    ∃ t, clkCycle pc cc s = .next t ∧ t.crossing = .sync ∧ depth t = depth s ∧ t.pOut.pushOk = !full s ∧
      t.cOut.popOk = !empty s ∧ fill t + (!empty s).toNat = fill s + (!full s).toNat := by
  obtain ⟨hpc, hpush⟩ := decode_pc_eq_ok.1 hpc
  obtain ⟨hcc, hpop⟩ := decode_cc_eq_ok.1 hcc
  obtain ⟨t, e⟩ := clkCycle_completes hrun hx hpc hcc
  have ht := h.clkCycle e
  refine ⟨t, e, ?_⟩
  obtain ⟨-, -, -, p, c, hp, hc, rfl⟩ := clkCycle_eq_next.1 e
  obtain ⟨hpushOk, hpushed⟩ := exec_push_counts hrun (hpush ▸ hp)
  obtain ⟨hpopOk, hpopped⟩ := exec_pop_counts hrun (hpop ▸ hc)
  refine ⟨hx, rfl, hpushOk, hpopOk, ?_⟩
  have hle : c.ghost.popped ≤ p.ghost.pushed := ht.popped_le_pushed
  have hfill : fill (mergeSides s p c) = p.ghost.pushed - c.ghost.popped := ht.fill_eq
  have hle' := h.popped_le_pushed
  rw [hfill, h.fill_eq]
  omega

/-- What the flags let through in one cycle fits the buffer (R36). -/
theorem BlockInv.flags_fit {s : State} (h : BlockInv s) :
    (!empty s).toNat ≤ fill s ∧ fill s + (!full s).toNat ≤ depth s := by
  constructor
  · cases he : empty s
    · exact h.fill_pos_of_not_empty he
    · exact Nat.zero_le _
  · cases hf : full s
    · exact h.fill_lt_of_not_full hf
    · exact h.fill_le_depth

/-- Settles O45: in `SYNC` the flags are exact, before the cycle and after it, so the fill decides both responses and the
responses the fill (`clkCycle_push_pop`). -/
theorem sameCyclePushAndPop : Obligations.SameCyclePushAndPop := by
  intro v pc cc s h hrun hx hpc hcc
  obtain ⟨t, e, hx', hdepth, hpushOk, hpopOk, hfill⟩ := clkCycle_push_pop h hrun hx hpc hcc
  have ht := h.clkCycle e
  have hpos := h.depth_pos
  obtain ⟨hpopFits, hpushFits⟩ := h.flags_fit
  have hfull := h.full_of_sync hx
  have hempty := h.empty_of_sync hx
  refine ⟨t, e, ?_⟩
  rw [region_eq_full_iff, region_eq_empty_iff, region_eq_partlyFilled_iff, hpushOk, hpopOk, ht.empty_of_sync hx',
    ht.full_of_sync hx', decide_eq_false_iff_not, decide_eq_false_iff_not, hdepth]
  refine ⟨?full, ?empty, ?partly, ?nextPop, ?nextPush⟩
  case full =>
    rintro ⟨hsome, hmax⟩
    rw [hfull, hempty, decide_eq_true hmax, decide_eq_false hsome] at hfill ⊢
    exact ⟨rfl, rfl, hfill⟩
  case empty =>
    intro hnone
    have hroom : fill s ≠ depth s := by omega
    rw [hfull, hempty, decide_eq_false hroom, decide_eq_true hnone] at hfill ⊢
    exact ⟨rfl, rfl, hfill⟩
  case partly =>
    rintro ⟨hsome, hroom⟩
    rw [hfull, hempty, decide_eq_false hroom, decide_eq_false hsome] at hfill ⊢
    exact ⟨rfl, rfl, Nat.add_right_cancel hfill⟩
  case nextPop =>
    intro hok
    rw [hok, Bool.toNat_true] at hfill
    omega
  case nextPush =>
    intro hok
    rw [hok, Bool.toNat_true] at hfill
    omega

end Sys2Proof.Safety
end

section
/-! SUPPORT. Every input by which the environment does not act as operations of the abstract machine (R199, R258), so that
what those operations keep, the input keeps; and a settled block under idle callers (R265). -/

namespace Sys2Proof.Safety

open Sys2Proof.Machine

/-- The operations an input can stand for on a block with `DATA_W = dw`: those its words select and, at a clock edge of
`ASYNC`, the step of that domain's synchronising agent (R199). -/
def Selects (dw : Nat) : Input → Instr → Prop
  | .command w, i => decode dw w = .ok i
  | .st d, i => i = .syncTail d
  | .sh d, i => i = .syncHead d
  | .clk pc cc, i => i = decodePC dw pc ∨ i = decodeCC cc
  | .wclk pc _, i => i = decodePC dw pc ∨ ∃ d, i = .syncTail d
  | .rclk cc _, i => i = decodeCC cc ∨ ∃ d, i = .syncHead d
  | .resetLow _ _, _ => False
  | .resetHigh, _ => False

/-- Operations of one kind, one after the other. -/
def Operations (kind : Instr → Prop) : State → State → Prop :=
  Relation.ReflTransGen fun s t => ∃ i, kind i ∧ exec i s = .next t

section operations
variable {kind : Instr → Prop} {i j : Instr} {s t u : State}

theorem operations_one (hi : kind i) (e : exec i s = .next t) : Operations kind s t := .single ⟨i, hi, e⟩

theorem operations_two (hi : kind i) (e : exec i s = .next t) (hj : kind j) (e' : exec j t = .next u) :
    Operations kind s u := .tail (operations_one hi e) ⟨j, hj, e'⟩

/-- In both forms an input by which the environment does not act does to the abstract machine what operations do. -/
theorem runInput_is_operations {x : Input} (h : BlockInv s) (hx : environmentInput s.dataW x = false)
    (e : runInput x s = .next t) : ∃ u, Operations (Selects s.dataW x) s u ∧ abstract u = abstract t := by
  cases x with
  | command w =>
    obtain ⟨i, hi, e⟩ := runCommand_eq_next.1 e
    exact ⟨t, operations_one hi e, rfl⟩
  | st d => exact ⟨t, operations_one (i := .syncTail d) rfl e, rfl⟩
  | sh d => exact ⟨t, operations_one (i := .syncHead d) rfl e, rfl⟩
  | clk pc cc =>
    obtain ⟨hsync, -⟩ := clkCycle_eq_next.1 e
    obtain ⟨hvalue, hroom⟩ := syncCycleIsTwoAtomicSteps pc cc s t h e
    rcases h.not_full_or_not_empty hsync with hf | he
    · obtain ⟨u, hc, hp⟩ := andThen_eq_next.1 (hroom hf)
      exact ⟨t, operations_two (.inr rfl) hc (.inl rfl) hp, rfl⟩
    · obtain ⟨u, hp, hc⟩ := andThen_eq_next.1 (hvalue he)
      exact ⟨t, operations_two (.inl rfl) hp (.inr rfl) hc, rfl⟩
  | wclk pc late =>
    obtain ⟨u, w, hu, hw, habs⟩ := wclkEdge_is_abstract_steps h e
    exact ⟨w, operations_two (.inl rfl) hu (.inr ⟨_, rfl⟩) hw, habs⟩
  | rclk cc late =>
    obtain ⟨u, w, hu, hw, habs⟩ := rclkEdge_is_abstract_steps h e
    exact ⟨w, operations_two (.inl rfl) hu (.inr ⟨_, rfl⟩) hw, habs⟩
  | resetLow => cases hx
  | resetHigh => cases hx

/-- What the operations an input stands for keep, and what only reads the abstract machine, the input keeps. -/
theorem runInput_keeps {P : Abstract → Prop} {x : Input} (h : BlockInv s) (hx : environmentInput s.dataW x = false)
    (hk : ∀ i u w, Selects s.dataW x i → BlockInv u → P (abstract u) → exec i u = .next w → P (abstract w))
    (hs : P (abstract s)) (e : runInput x s = .next t) : P (abstract t) := by
  obtain ⟨u, hu, habs⟩ := runInput_is_operations h hx e
  have hkept : BlockInv u ∧ P (abstract u) := by
    clear habs e
    induction hu with
    | refl => exact ⟨h, hs⟩
    | tail _ hstep ih =>
      obtain ⟨i, hi, e⟩ := hstep
      obtain ⟨hinv, hp⟩ := ih
      exact ⟨hinv.exec e, hk i _ _ hi hinv hp e⟩
  exact habs ▸ hkept.2

end operations

/-! ## Synchronising steps that have nothing to do -/

section upToDate
variable {d : Nat} {s t : State} (h : BlockInv s)
include h

theorem abstract_syncTail_of_upToDate (hview : tailP s = s.tail) (e : exec (.syncTail d) s = .next t) :
    abstract t = abstract s := by
  have ht := h.exec e
  obtain ⟨-, hd, rfl⟩ := execSyncTail_eq_next.1 e
  rw [h.tailLag_eq, h.tailP_eq_tail_iff.1 hview, Nat.sub_self, Nat.le_zero] at hd
  subst hd
  exact abstract_eq_of_stored_eq ht h rfl

theorem abstract_syncHead_of_upToDate (hview : headC s = s.head) (e : exec (.syncHead d) s = .next t) :
    abstract t = abstract s := by
  have ht := h.exec e
  obtain ⟨-, hd, rfl⟩ := execSyncHead_eq_next.1 e
  rw [h.headLag_eq, h.headC_eq_head_iff.1 hview, Nat.sub_self, Nat.le_zero] at hd
  subst hd
  exact abstract_eq_of_stored_eq ht h rfl

end upToDate

/-! ## A settled block (R265) -/

/-- What the abstract machine has but the response words. -/
def unanswered (a : Abstract) : Abstract := { a with pOut := PResponse.quiet, cOut := CResponse.quiet }

/-- An operation that requests nothing: an idle command or a synchronising step. -/
inductive Idle : Instr → Prop
  | pIdle : Idle .pIdle
  | cIdle : Idle .cIdle
  | syncTail (d : Nat) : Idle (.syncTail d)
  | syncHead (d : Nat) : Idle (.syncHead d)

/-- The environment does not act by a quiet input, and the operations it stands for request nothing. -/
theorem idle_of_quietInput {dw : Nat} {x : Input} (hx : quietInput dw x = true) :
    environmentInput dw x = false ∧ ∀ i, Selects dw x i → Idle i := by
  cases x with
  | command w =>
    simp only [quietInput, Bool.or_eq_true, decide_eq_true_eq] at hx
    rcases hx with hdec | hdec
    · refine ⟨by simp [environmentInput, hdec, Instr.agent], fun i hi => ?_⟩
      cases hdec.symm.trans hi
      exact .pIdle
    · refine ⟨by simp [environmentInput, hdec, Instr.agent], fun i hi => ?_⟩
      cases hdec.symm.trans hi
      exact .cIdle
  | st d => exact ⟨rfl, by rintro i ⟨⟩; exact .syncTail d⟩
  | sh d => exact ⟨rfl, by rintro i ⟨⟩; exact .syncHead d⟩
  | clk pc cc =>
    simp only [quietInput, Bool.and_eq_true, decide_eq_true_eq] at hx
    obtain ⟨hpc, hcc⟩ := hx
    refine ⟨rfl, ?_⟩
    rintro i (rfl | rfl)
    · exact hpc ▸ .pIdle
    · exact hcc ▸ .cIdle
  | wclk pc late =>
    have hpc := of_decide_eq_true hx
    refine ⟨rfl, ?_⟩
    rintro i (rfl | ⟨d, rfl⟩)
    · exact hpc ▸ .pIdle
    · exact .syncTail d
  | rclk cc late =>
    have hcc := of_decide_eq_true hx
    refine ⟨rfl, ?_⟩
    rintro i (rfl | ⟨d, rfl⟩)
    · exact hcc ▸ .cIdle
    · exact .syncHead d
  | resetLow => cases hx
  | resetHigh => cases hx

theorem settled_of_unanswered_eq {s t : State} (hs : Settled s)
    (h : unanswered (abstract t) = unanswered (abstract s)) : Settled t := by
  obtain ⟨htail, hhead⟩ := hs
  constructor
  · calc tailP t = tailP s := congrArg Abstract.tailP h
      _ = s.tail := htail
      _ = t.tail := (congrArg Abstract.tail h).symm
  · calc headC t = headC s := congrArg Abstract.headC h
      _ = s.head := hhead
      _ = t.head := (congrArg Abstract.head h).symm

/-- On a settled block an operation that requests nothing changes the response words alone (R265). -/
theorem exec_idle_of_settled {i : Instr} {s t : State} (h : BlockInv s) (hs : Settled s) (hi : Idle i)
    (e : exec i s = .next t) : unanswered (abstract t) = unanswered (abstract s) := by
  obtain ⟨htail, hhead⟩ := hs
  cases hi with
  | pIdle => obtain ⟨-, rfl⟩ | ⟨-, rfl⟩ := execPIdle_eq_next.1 e <;> rfl
  | cIdle => obtain ⟨-, rfl⟩ | ⟨-, rfl⟩ := execCIdle_eq_next.1 e <;> rfl
  | syncTail d => exact congrArg unanswered (abstract_syncTail_of_upToDate h htail e)
  | syncHead d => exact congrArg unanswered (abstract_syncHead_of_upToDate h hhead e)

/-- Settles O57: each operation a quiet input stands for changes the response words alone (`exec_idle_of_settled`). -/
theorem settledStateIsQuiet : Obligations.SettledStateIsQuiet := by
  intro x s t h hs hx e
  obtain ⟨henv, hidle⟩ := idle_of_quietInput hx
  have hquiet : unanswered (abstract t) = unanswered (abstract s) :=
    runInput_keeps (P := fun a => unanswered a = unanswered (abstract s)) h henv
      (fun i u w hi hu hsame hw => (exec_idle_of_settled hu (settled_of_unanswered_eq hs hsame) (hidle i hi) hw).trans hsame)
      rfl e
  exact ⟨settled_of_unanswered_eq hs hquiet, congrArg (fun a => { a with pOut := s.pOut, cOut := s.cOut }) hquiet⟩

end Sys2Proof.Safety
end

section
/-! SUPPORT. Reset and the life it begins and ends (70_reset_and_hazards.md section 1): what the reset input does with the
words at the ports, what a block does before its first reset and during one, and what no step after construction changes. -/

namespace Sys2Proof

/-- The word of a `P_IDLE` is one with `push_req` at 0 (R93, R99). -/
theorem decodePC_eq_pIdle_iff {dw w : Nat} : decodePC dw w = .pIdle ↔ w.testBit dw = false := by
  unfold decodePC
  cases w.testBit dw <;> simp

/-- The word of a `C_IDLE` is one with `pop_req` at 0 (R95, R99). -/
theorem decodeCC_eq_cIdle_iff {w : Nat} : decodeCC w = .cIdle ↔ w.testBit 0 = false := by
  unfold decodeCC
  cases w.testBit 0 <;> simp

end Sys2Proof

namespace Sys2Proof.Machine

open Sys2Proof.Safety

/-! ## The reset input -/

/-- The response words of a block in reset (R244). -/
theorem PResponse.word_quiet : PResponse.quiet.word = 0b00#2 := by decide

theorem CResponse.word_quiet (dw : Nat) : (CResponse.quiet.word dw).toNat = 2 ^ dw := by
  rw [CResponse.word_toNat (Nat.two_pow_pos dw)]
  simp [CResponse.quiet]

section resetInput
variable {pc cc : Nat} {s : State} (hpc : pc < 2 ^ Format.width s.dataW .pc) (hcc : cc < 2 ^ Format.width s.dataW .cc)
include hpc hcc

theorem resetCycle_of_fits : resetCycle pc cc s = lowerReset (decodePC s.dataW pc) (decodeCC cc) s := by
  rw [resetCycle, decode_pc hpc, decode_cc s.dataW hcc]

/-- The reset input low clears the block, where it was low already or the ports are idle (R244, R246). -/
theorem resetLow_clears
    (hl : s.life = .inReset ∨ (s.life ≠ .elaborating ∧ pc.testBit s.dataW = false ∧ cc.testBit 0 = false)) :
    runInput (.resetLow pc cc) s = .next (cleared .inReset s) := by
  refine resetCycle_eq_next.2 ⟨hpc, hcc, ?_⟩
  rcases hl with hr | ⟨hne, hp, hc⟩
  · exact ⟨hr ▸ nofun, .inl hr, rfl⟩
  · exact ⟨hne, .inr ⟨decodePC_eq_pIdle_iff.2 hp, decodeCC_eq_cIdle_iff.2 hc⟩, rfl⟩

/-- A request where the reset input goes low stops under its own name (R223, R246). -/
theorem resetLow_refused (hl : s.life = .constructed ∨ s.life = .running)
    (hreq : pc.testBit s.dataW = true ∨ cc.testBit 0 = true) :
    runInput (.resetLow pc cc) s = .refused .resetUnderTraffic := by
  have hbusy : ¬ (decodePC s.dataW pc = .pIdle ∧ decodeCC cc = .cIdle) := by
    rw [decodePC_eq_pIdle_iff, decodeCC_eq_cIdle_iff]
    rcases hreq with hreq | hreq <;> simp [hreq]
  refine (resetCycle_of_fits hpc hcc).trans ?_
  rcases hl with hl | hl <;> simp only [lowerReset, hl, if_neg hbusy]

end resetInput

/-- Settles O15. -/
theorem resetUnderTrafficIsRefused : Obligations.ResetUnderTrafficIsRefused :=
  fun _ _ _ hpc hcc hl hreq => resetLow_refused hpc hcc hl hreq

/-- Settles O9: `RESET` leaves a cleared state, whose views, slots and flags are those of R42; the reset input low clears the
block (`resetLow_clears`) and high only sets it running. -/
theorem resetRestoresInitialValues : Obligations.ResetRestoresInitialValues := by
  intro s hl
  refine ⟨_, execReset_eq_next.2 ⟨hl, rfl⟩, rfl, rfl, rfl, rfl, rfl, tailP_cleared, headC_cleared, memRead_cleared,
    cleared_crossing_of_sync, fun r hx => ⟨_, cleared_crossing_of_async hx, rfl, rfl, rfl, rfl⟩, rfl, rfl, rfl, empty_cleared,
    full_cleared, PResponse.word_quiet, CResponse.word_quiet s.dataW, ?lowHigh⟩
  case lowHigh =>
    have hlow := resetLow_clears (s := s) (Nat.two_pow_pos _) (Nat.two_pow_pos _)
      (.inr ⟨hl, Nat.zero_testBit _, Nat.zero_testBit _⟩)
    exact andThen_eq_next.2 ⟨_, hlow, raiseReset_eq_next.2 ⟨.inl rfl, rfl⟩⟩

/-! ## In reset -/

section inReset
variable {i : Instr} {s t : State}

/-- A block in reset is settled at 0, with the quiet responses, so that no operation of its own agents or callers changes
anything the abstract machine has (R244). -/
theorem exec_of_inReset (h : BlockInv s) (hr : s.life = .inReset) (hi : i.agent ≠ .environment) (e : exec i s = .next t) :
    abstract t = abstract s := by
  have ht := h.exec e
  obtain ⟨hg, -, hp, hc⟩ := h.heldInReset hr
  cases hagent : i.agent with
  | producer =>
    cases producerStep_of_exec hagent e with
    | responds ha =>
      cases ha hr
      exact abstract_eq_of_stored_eq ht h (congrArg (fun p => { stored s with pOut := p }) hp.symm)
    | enqueues hrun => exact not_inReset_of_running hrun hr
  | consumer =>
    cases consumerStep_of_exec hagent e with
    | responds ha =>
      cases ha hr
      exact abstract_eq_of_stored_eq ht h (congrArg (fun c => { stored s with cOut := c }) hc.symm)
    | dequeues hrun => exact not_inReset_of_running hrun hr
  | st =>
    obtain ⟨d, rfl⟩ := eq_syncTail_of_agent hagent
    exact abstract_syncTail_of_upToDate h (h.tailP_eq_tail_iff.2 (by rw [hg]; rfl)) e
  | sh =>
    obtain ⟨d, rfl⟩ := eq_syncHead_of_agent hagent
    exact abstract_syncHead_of_upToDate h (h.headC_eq_head_iff.2 (by rw [hg]; rfl)) e
  | environment => exact absurd hagent hi

/-- The environment performs none of the operations of an input by which it does not act. -/
theorem agent_ne_environment_of_selects {dw : Nat} {x : Input} (hx : environmentInput dw x = false)
    (hi : Selects dw x i) : i.agent ≠ .environment := by
  cases x with
  | command w =>
    have hdec : decode dw w = .ok i := hi
    simpa [environmentInput, hdec] using hx
  | st d => exact hi ▸ nofun
  | sh d => exact hi ▸ nofun
  | clk pc cc =>
    rcases hi with rfl | rfl
    · rw [agent_decodePC]; nofun
    · rw [agent_decodeCC]; nofun
  | wclk pc late =>
    rcases hi with rfl | ⟨d, rfl⟩
    · rw [agent_decodePC]; nofun
    · nofun
  | rclk cc late =>
    rcases hi with rfl | ⟨d, rfl⟩
    · rw [agent_decodeCC]; nofun
    · nofun
  | resetLow => cases hx
  | resetHigh => cases hx

theorem runInput_of_inReset {x : Input} (h : BlockInv s) (hr : s.life = .inReset)
    (hx : environmentInput s.dataW x = false) (e : runInput x s = .next t) : abstract t = abstract s := by
  refine runInput_keeps (P := (· = abstract s)) h hx (fun i u w hi hu hsame hw => ?_) rfl e
  have hur : u.life = .inReset := (congrArg Abstract.life hsame).trans hr
  exact (exec_of_inReset hu hur (agent_ne_environment_of_selects hx hi) hw).trans hsame

end inReset

/-- Settles O14: the input low by `resetLow_clears`, the commands one by one, and the inputs of the block's own agents and
clocks by `runInput_of_inReset`. -/
theorem requestsAreIgnoredInReset : Obligations.RequestsAreIgnoredInReset := by
  refine ⟨fun pc cc s hpc hcc hl => ?low, fun s hr => ?commands, fun x s t h hr hx e => runInput_of_inReset h hr hx e⟩
  case low =>
    exact ⟨_, resetLow_clears hpc hcc hl, rfl, rfl, rfl, tailP_cleared, headC_cleared, memRead_cleared, rfl, rfl, rfl,
      PResponse.word_quiet, CResponse.word_quiet s.dataW⟩
  case commands =>
    exact ⟨fun v hv => exec_push_of_inReset hv hr, execPIdle_eq_next.2 (.inl ⟨hr, rfl⟩), exec_pop_of_inReset hr,
      execCIdle_eq_next.2 (.inl ⟨hr, rfl⟩), raiseReset_eq_next.2 ⟨.inl hr, rfl⟩⟩

/-! ## Before the first reset (R243) -/

section beforeReset
variable {i : Instr} {s t : State}

theorem ifReset_constructed {o : Host.Outcome State Fault Refusal} (hl : s.life = .constructed) :
    ifReset o s = .refused .usedBeforeReset := by rw [ifReset, hl]

theorem ifReset_elaborating {o : Host.Outcome State Fault Refusal} (hl : s.life = .elaborating) :
    ifReset o s = .refused .noInstance := by rw [ifReset, hl]

/-- Everything but the environment's operations waits for the first reset (R124, R243). -/
theorem exec_eq_ifReset (hi : i.agent ≠ .environment) (hw : i.wf s.dataW = true) : ∃ o, exec i s = ifReset o s := by
  cases i with
  | construct => exact absurd rfl hi
  | reset => exact absurd rfl hi
  | push v => exact ⟨_, if_pos (of_decide_eq_true hw)⟩
  | pIdle => exact ⟨_, rfl⟩
  | pop => exact ⟨_, rfl⟩
  | cIdle => exact ⟨_, rfl⟩
  | syncTail d => exact ⟨_, rfl⟩
  | syncHead d => exact ⟨_, rfl⟩

theorem life_of_exec (hi : i.agent ≠ .environment) (e : exec i s = .next t) : s.life = .inReset ∨ s.life = .running := by
  cases i with
  | construct => exact absurd rfl hi
  | reset => exact absurd rfl hi
  | push v =>
    obtain ⟨-, ⟨hl, -⟩ | ⟨hl, -⟩⟩ := execPush_eq_next.1 e
    · exact .inl hl
    · exact .inr hl
  | pIdle => exact (execPIdle_eq_next.1 e).imp And.left And.left
  | pop => exact (execPop_eq_next.1 e).imp And.left And.left
  | cIdle => exact (execCIdle_eq_next.1 e).imp And.left And.left
  | syncTail d => exact (execSyncTail_eq_next.1 e).1
  | syncHead d => exact (execSyncHead_eq_next.1 e).1

/-- An input that goes on before the first reset is a command word of the environment or the reset input low. -/
theorem runInput_before_reset {x : Input} (hl : s.life = .elaborating ∨ s.life = .constructed)
    (e : runInput x s = .next t) :
    (∃ w i, x = .command w ∧ decode s.dataW w = .ok i ∧ i.agent = .environment ∧ exec i s = .next t) ∨
      s.life = .constructed ∧ ∃ pc cc, x = .resetLow pc cc := by
  have hno : ¬ (s.life = .inReset ∨ s.life = .running) := by rcases hl with hl | hl <;> simp [hl]
  cases x with
  | command w =>
    obtain ⟨i, hdec, e⟩ := runCommand_eq_next.1 e
    exact .inl ⟨w, i, rfl, hdec, by_contra fun hi => hno (life_of_exec hi e), e⟩
  | st d => exact absurd (life_of_exec (i := .syncTail d) nofun e) hno
  | sh d => exact absurd (life_of_exec (i := .syncHead d) nofun e) hno
  | clk pc cc =>
    obtain ⟨-, -, -, p, c, hp, -, -⟩ := clkCycle_eq_next.1 e
    exact absurd (life_of_exec (by rw [agent_decodePC]; nofun) hp) hno
  | wclk pc late =>
    obtain ⟨-, r, p, r', -, hp, -, -⟩ := wclkEdge_eq_next.1 e
    exact absurd (life_of_exec (by rw [agent_decodePC]; nofun) hp) hno
  | rclk cc late =>
    obtain ⟨-, r, c, r', -, hc, -, -⟩ := rclkEdge_eq_next.1 e
    exact absurd (life_of_exec (by rw [agent_decodeCC]; nofun) hc) hno
  | resetLow pc cc =>
    obtain ⟨-, -, hne, -, -⟩ := resetCycle_eq_next.1 e
    exact .inr ⟨hl.resolve_left hne, pc, cc, rfl⟩
  | resetHigh => exact absurd (raiseReset_eq_next.1 e).1 hno

end beforeReset

/-- Settles O16: what waits for the first reset is refused (`exec_eq_ifReset`), and what goes on before it is an operation of
the environment or the reset input low (`runInput_before_reset`). -/
theorem useBeforeResetIsRefused : Obligations.UseBeforeResetIsRefused := by
  refine ⟨fun i s hl hi hw => ?constructed, fun i s hl hne hw => ?elaborating, fun x s t hl e => ?reset,
    fun x s t hl e => ?construct⟩
  case constructed =>
    obtain ⟨o, ho⟩ := exec_eq_ifReset hi hw
    rw [ho, ifReset_constructed hl]
  case elaborating =>
    by_cases hi : i.agent = .environment
    · cases i with
      | construct c => exact absurd rfl (hne c)
      | reset => exact if_pos hl
      | _ => cases hi
    · obtain ⟨o, ho⟩ := exec_eq_ifReset hi hw
      rw [ho, ifReset_elaborating hl]
  case reset =>
    obtain ⟨w, i, rfl, hdec, hi, e⟩ | ⟨-, hlow⟩ := runInput_before_reset (.inr hl) e
    · cases i with
      | construct c => cases hl.symm.trans (execConstruct_eq_next.1 e).1
      | reset => exact .inl ⟨w, rfl, hdec⟩
      | _ => cases hi
    · exact .inr hlow
  case construct =>
    obtain ⟨w, i, rfl, hdec, hi, e⟩ | ⟨hconstructed, -⟩ := runInput_before_reset (.inl hl) e
    · cases i with
      | construct c => exact ⟨w, c, rfl, hdec⟩
      | reset => exact absurd hl (execReset_eq_next.1 e).1
      | _ => cases hi
    · cases hl.symm.trans hconstructed

/-! ## After construction (R248) -/

/-- The one block still exists, with the capacity it was built with. -/
def SameBlock (s t : State) : Prop := t.capacity = s.capacity ∧ t.indexMask = s.indexMask ∧ t.life ≠ .elaborating

section sameBlock
variable {i : Instr} {s t : State} (hl : s.life ≠ .elaborating)
include hl

theorem exec_sameBlock (e : exec i s = .next t) : SameBlock s t := by
  cases hagent : i.agent with
  | producer => cases producerStep_of_exec hagent e <;> exact ⟨rfl, rfl, hl⟩
  | consumer => cases consumerStep_of_exec hagent e <;> exact ⟨rfl, rfl, hl⟩
  | st =>
    obtain ⟨d, rfl⟩ := eq_syncTail_of_agent hagent
    obtain ⟨-, -, rfl⟩ := execSyncTail_eq_next.1 e
    exact ⟨rfl, rfl, hl⟩
  | sh =>
    obtain ⟨d, rfl⟩ := eq_syncHead_of_agent hagent
    obtain ⟨-, -, rfl⟩ := execSyncHead_eq_next.1 e
    exact ⟨rfl, rfl, hl⟩
  | environment =>
    cases i with
    | construct c => exact absurd (execConstruct_eq_next.1 e).1 hl
    | reset =>
      obtain ⟨-, rfl⟩ := execReset_eq_next.1 e
      exact ⟨rfl, rfl, nofun⟩
    | _ => cases hagent

theorem runInput_sameBlock {x : Input} (e : runInput x s = .next t) : SameBlock s t := by
  cases x with
  | command w =>
    obtain ⟨i, -, e⟩ := runCommand_eq_next.1 e
    exact exec_sameBlock hl e
  | st d => exact exec_sameBlock (i := .syncTail d) hl e
  | sh d => exact exec_sameBlock (i := .syncHead d) hl e
  | clk pc cc =>
    obtain ⟨-, -, -, p, c, -, -, rfl⟩ := clkCycle_eq_next.1 e
    exact ⟨rfl, rfl, hl⟩
  | wclk pc late =>
    obtain ⟨-, r, p, r', -, hp, -, rfl⟩ := wclkEdge_eq_next.1 e
    have hp : SameBlock (withAsync r.noteWclk s) p := exec_sameBlock hl hp
    exact hp
  | rclk cc late =>
    obtain ⟨-, r, c, r', -, hc, -, rfl⟩ := rclkEdge_eq_next.1 e
    have hc : SameBlock (withAsync r.noteRclk s) c := exec_sameBlock hl hc
    exact hc
  | resetLow pc cc =>
    obtain ⟨-, -, -, -, rfl⟩ := resetCycle_eq_next.1 e
    exact ⟨rfl, rfl, nofun⟩
  | resetHigh =>
    obtain ⟨-, rfl⟩ := raiseReset_eq_next.1 e
    exact ⟨rfl, rfl, nofun⟩

theorem step_sameBlock (e : step s = .next t) : SameBlock s t := by
  cases hin : s.inputs with
  | nil =>
    rw [step_nil hin] at e
    cases e
    exact ⟨rfl, rfl, hl⟩
  | cons x rest =>
    rw [step_cons hin] at e
    exact runInput_sameBlock (s := withInputs rest s) hl e

end sameBlock

/-- Settles O11: every operation and every input keeps the block (`exec_sameBlock`, `step_sameBlock`), since only `CONSTRUCT`
sets a capacity, and it does not run again. -/
theorem nothingChangesCapacity : Obligations.NothingChangesCapacity := by
  refine ⟨fun i s t hl e => ?_, fun s t hl e => step_sameBlock hl e, fun c s hl => if_neg hl⟩
  obtain ⟨hcap, hmask, -⟩ := exec_sameBlock hl e
  exact ⟨hcap, hmask⟩

end Sys2Proof.Machine
end

section
/-! SUPPORT. One cursor's way to the other side of `ASYNC` (R194 to R196, R262), said once for both cursors: the gray register,
the chain that samples it, and the two counts, under the edges of the source's clock and of the sampling clock. -/

namespace Sys2Proof.Safety

open Sys2Proof.Machine

/-- A published cursor with the chain that carries it to the other side. -/
@[ext] structure Lane where
  /-- The gray register of the cursor. -/
  cur : Word
  /-- What a late sample of it is. -/
  prev : Word
  /-- The chain of the sampling side, newest stage first. -/
  chain : List Word
  /-- The count of the cursor. -/
  published : Nat
  /-- The count of the view. -/
  seen : Nat

/-- An edge as a lane has it: of the source's clock, or of the sampling clock. -/
inductive LaneEdge
  | source
  | sampling (late : Bool)

def LaneEdge.isSampling : LaneEdge → Bool
  | .source => false
  | .sampling _ => true

namespace Lane

/-- An edge of the source's clock after which the cursor's count is `p`. -/
def publish (p : Nat) (L : Lane) : Lane := { L with cur := grayOfCount p, prev := L.cur, published := p }

/-- An edge of the sampling clock. -/
def shift (late : Bool) (L : Lane) : Lane :=
  let chain := shiftChain (sample L.cur L.prev (L.chain.headD 0) late) L.chain
  { L with prev := L.cur, chain := chain
           seen := L.seen + (gray2bin (lastStage chain) - gray2bin (lastStage L.chain)).toNat }

/-- What an edge can do to a lane: the source publishes its next count or none. -/
inductive Step : LaneEdge → Lane → Lane → Prop
  | source {L : Lane} {p : Nat} (h : p = L.published ∨ p = L.published + 1) : Step .source L (L.publish p)
  | sampling {L : Lane} (late : Bool) : Step (.sampling late) L (L.shift late)

/-- What the invariant says of a lane (R28, R196, R199). -/
structure Ok (L : Lane) : Prop where
  curIsPublished : L.cur = grayOfCount L.published
  prevOk : PrevOk L.prev L.published
  chainOk : ChainOk L.chain L.published L.seen
  close : L.published - L.seen < 2 ^ 64

/-- Edges one after the other, the lane in order before each and at the end. -/
inductive Run : List LaneEdge → Lane → Lane → Prop
  | nil {L : Lane} (h : L.Ok) : Run [] L L
  | cons {e : LaneEdge} {es : List LaneEdge} {L M K : Lane} (h : L.Ok) (hstep : Step e L M) (hrun : Run es M K) :
    Run (e :: es) L K

/-- The counts that the stages of a lane carry (`ChainOk`, with the counts named). -/
structure Carries (L : Lane) (counts : List Nat) : Prop where
  codes : L.chain = counts.map grayOfCount
  falling : counts.Pairwise fun newer older => older ≤ newer
  bounded : ∀ c ∈ counts, c ≤ L.published
  last : counts.getLast? = some L.seen

/-! ## One edge -/

section edge
variable {L M K : Lane} {counts : List Nat} {e : LaneEdge} {es : List LaneEdge}

theorem Ok.carries (h : L.Ok) : ∃ counts, L.Carries counts := by
  obtain ⟨counts, hcodes, hfall, hle, hlast⟩ := h.chainOk
  exact ⟨counts, hcodes, hfall, hle, hlast⟩

theorem Carries.length_eq (h : L.Carries counts) : counts.length = L.chain.length := by simp [h.codes]

/-- A source's edge from the lane after it, field by field. -/
theorem Step.source_of_cur {p : Nat} (hp : p = L.published ∨ p = L.published + 1) (hcur : M.cur = grayOfCount p)
    (hprev : M.prev = L.cur) (hview : M.chain = L.chain ∧ M.seen = L.seen) (hpub : M.published = p) : Step .source L M := by
  obtain ⟨hchain, hseen⟩ := hview
  have hM : M = L.publish p := Lane.ext hcur hprev hchain hpub hseen
  exact hM ▸ .source hp

theorem Step.published_le (h : Step e L M) : L.published ≤ M.published := by
  cases h with
  | source hp => exact hp.elim Eq.ge fun hp => hp ▸ Nat.le_succ _
  | sampling => exact le_rfl

theorem Step.seen_le (h : Step e L M) : L.seen ≤ M.seen := by
  cases h with
  | source => exact le_rfl
  | sampling => exact Nat.le_add_right _ _

theorem Step.length_eq (h : Step e L M) : M.chain.length = L.chain.length := by
  cases h with
  | source => rfl
  | sampling => exact shiftChain_length _ _

/-- No sample taken from here on is older than the count `n`, which the source has published: where a late one could be, the
count before the present one, that is not older than `n` either. -/
structure Fresh (n : Nat) (L : Lane) : Prop where
  le_published : n ≤ L.published
  prev_eq : n = L.published → L.prev = L.cur

theorem Fresh.step {n : Nat} (hok : L.Ok) (h : Fresh n L) (hstep : Step e L M) : Fresh n M := by
  obtain ⟨hle, hprev⟩ := h
  cases hstep with
  | sampling => exact ⟨hle, fun _ => rfl⟩
  | source hp =>
    rcases hp with rfl | rfl
    · exact ⟨hle, fun _ => hok.curIsPublished⟩
    · exact ⟨Nat.le_succ_of_le hle, fun he => absurd hle (he ▸ Nat.not_succ_le_self _)⟩

/-- The sample of an edge is the code of a count that is older than no stage's; it is the present count unless the sample is
late, and no older than `n` where the lane is fresh for `n` (R196, R262). -/
theorem sample_eq (hok : L.Ok) (h : L.Carries counts) (late : Bool) :
    ∃ m, sample L.cur L.prev (L.chain.headD 0) late = grayOfCount m ∧ m ≤ L.published ∧ (∀ c ∈ counts, c ≤ m) ∧
      (late = false → m = L.published) ∧ ∀ n, Fresh n L → n ≤ m := by
  by_cases hprev : L.prev = L.cur
  · refine ⟨L.published, ?_, le_rfl, h.bounded, fun _ => rfl, fun n hn => hn.le_published⟩
    rw [sample, hprev, ite_self, hok.curIsPublished]
  · obtain ⟨hcodes, hfall, hle, hlast⟩ := h
    cases counts with
    | nil => cases hlast
    | cons first older =>
      obtain ⟨m, hm, hsample, hfirst⟩ := sample_grayOfCount hok.prevOk (hle first List.mem_cons_self) late
      refine ⟨m, ?_, ?_, ?_, fun hl => ?_, fun n hn => ?_⟩
      · rw [hok.curIsPublished, hcodes]
        exact hsample
      · omega
      · intro c hc
        rcases List.mem_cons.1 hc with rfl | hc
        · exact hfirst
        · exact ((List.pairwise_cons.1 hfall).1 c hc).trans hfirst
      · exact hm.resolve_right fun hlate => Bool.false_ne_true (hl.symm.trans hlate.1)
      · have hne : n ≠ L.published := fun he => hprev (hn.prev_eq he)
        have hpub := hn.le_published
        omega

/-- The count of the view follows the last stage (R197, R199). -/
theorem Ok.seen_shift {late : Bool} {view : Nat} (hok : L.Ok) (h : ChainOk (L.shift late).chain L.published view)
    (hview : L.seen ≤ view) : (L.shift late).seen = view := by
  change L.seen + (gray2bin (lastStage (L.shift late).chain) - gray2bin (lastStage L.chain)).toNat = view
  have hle := h.seen_le
  have hclose := hok.close
  rw [h.view, hok.chainOk.view, ofNat_sub_ofNat] <;> omega

/-- An edge of the sampling clock takes the count of its sample in, in front of the others. -/
theorem Carries.shift (hok : L.Ok) (h : L.Carries counts) (late : Bool) :
    ∃ m, (L.shift late).Carries ((m :: counts).take counts.length) ∧ (late = false → m = L.published) ∧
      ∀ n, Fresh n L → n ≤ m := by
  obtain ⟨m, hsample, hm, hnew, hpresent, hfresh⟩ := sample_eq hok h late
  obtain ⟨hcodes, hfall, hle, hlast⟩ := h
  have hcodes' : (L.shift late).chain = ((m :: counts).take counts.length).map grayOfCount := by
    rw [List.map_take, List.map_cons, ← hcodes, ← hsample, ← List.length_map (f := grayOfCount), ← hcodes]
    rfl
  have hfall' := (List.pairwise_cons.2 ⟨hnew, hfall⟩).sublist (List.take_sublist counts.length _)
  have hle' : ∀ c ∈ (m :: counts).take counts.length, c ≤ L.published := by
    intro c hc
    rcases List.mem_cons.1 (List.mem_of_mem_take hc) with rfl | hc
    · exact hm
    · exact hle c hc
  have hne : (m :: counts).take counts.length ≠ [] := by
    cases counts with
    | nil => cases hlast
    | cons => simp
  obtain ⟨view, hlast'⟩ : ∃ view, ((m :: counts).take counts.length).getLast? = some view :=
    ⟨_, List.getLast?_eq_some_getLast hne⟩
  have hview : L.seen ≤ view := by
    rcases List.mem_cons.1 (List.mem_of_mem_take (List.mem_of_getLast? hlast')) with rfl | hmem
    · exact hnew _ (List.mem_of_getLast? hlast)
    · exact getLast?_le hfall hlast view hmem
  have hseen := hok.seen_shift ⟨_, hcodes', hfall', hle', hlast'⟩ hview
  exact ⟨m, ⟨hcodes', hfall', hle', hseen ▸ hlast'⟩, hpresent, hfresh⟩

theorem Carries.publish {p : Nat} (h : L.Carries counts) (hp : L.published ≤ p) : (L.publish p).Carries counts :=
  ⟨h.codes, h.falling, fun c hc => (h.bounded c hc).trans hp, h.last⟩

end edge

/-! ## The stages an edge has reached -/

theorem mem_take_succ_of_shift {α : Type} {x v : α} {l : List α} {j : Nat}
    (h : x ∈ ((v :: l).take l.length).take (j + 1)) :
    x = v ∨ x ∈ l.take j := by
  rw [List.take_take] at h
  have h : x ∈ (v :: l).take (j + 1) := List.take_subset_take_left _ (Nat.min_le_left _ _) h
  simpa using h

theorem mem_drop_succ_of_shift {α : Type} {x v : α} {l : List α} {j : Nat}
    (h : x ∈ ((v :: l).take l.length).drop (j + 1)) :
    x ∈ l.drop j := by
  rw [List.drop_take, List.drop_succ_cons] at h
  exact List.mem_of_mem_take h

section reach
variable {n j : Nat} {L M K : Lane} {e : LaneEdge} {es : List LaneEdge}

/-- The first `j` stages carry counts from `n` on, and every sample to come does (R262, the latest case). -/
def Ahead (n j : Nat) (L : Lane) : Prop := Fresh n L ∧ ∃ counts, L.Carries counts ∧ ∀ c ∈ counts.take j, n ≤ c

/-- The stages after the first `j` carry counts up to `n` (R262, the earliest case). -/
def Behind (n j : Nat) (L : Lane) : Prop := ∃ counts, L.Carries counts ∧ ∀ c ∈ counts.drop j, c ≤ n

/-- The number of edges of the sampling clock. -/
def samplings (es : List LaneEdge) : Nat := es.countP LaneEdge.isSampling

theorem samplings_source : samplings (.source :: es) = samplings es := List.countP_cons_of_neg Bool.false_ne_true

theorem samplings_sampling (late : Bool) : samplings (.sampling late :: es) = samplings es + 1 := List.countP_cons_of_pos rfl

theorem Ahead.publish {p : Nat} (hok : L.Ok) (h : Ahead n j L) (hp : p = L.published ∨ p = L.published + 1) :
    Ahead n j (L.publish p) := by
  obtain ⟨hfresh, counts, hc, hj⟩ := h
  have hstep : Step .source L (L.publish p) := .source hp
  exact ⟨hfresh.step hok hstep, counts, hc.publish hstep.published_le, hj⟩

theorem Ahead.shift (hok : L.Ok) (h : Ahead n j L) (late : Bool) : Ahead n (j + 1) (L.shift late) := by
  obtain ⟨hfresh, counts, hc, hj⟩ := h
  obtain ⟨m, hc', -, hm⟩ := hc.shift hok late
  refine ⟨hfresh.step hok (.sampling late), _, hc', fun c hmem => ?_⟩
  rcases mem_take_succ_of_shift hmem with rfl | hmem
  · exact hm n hfresh
  · exact hj c hmem

theorem Ahead.run (h : Ahead n j L) (hrun : Run es L K) : Ahead n (j + samplings es) K := by
  induction hrun generalizing j with
  | nil => exact h
  | cons hok hstep _ ih =>
    cases hstep with
    | source hp =>
      rw [samplings_source]
      exact ih (h.publish hok hp)
    | sampling late =>
      rw [samplings_sampling, ← Nat.add_assoc, Nat.add_right_comm]
      exact ih (h.shift hok late)

theorem Behind.run (h : Behind n j L) (hrun : Run es L K) : Behind n (j + samplings es) K := by
  induction hrun generalizing j with
  | nil => exact h
  | cons hok hstep _ ih =>
    obtain ⟨counts, hc, hj⟩ := h
    cases hstep with
    | source hp =>
      rw [samplings_source]
      exact ih ⟨counts, hc.publish (Step.source hp).published_le, hj⟩
    | sampling late =>
      obtain ⟨m, hc', -⟩ := hc.shift hok late
      rw [samplings_sampling, ← Nat.add_assoc, Nat.add_right_comm]
      exact ih ⟨_, hc', fun c hmem => hj c (mem_drop_succ_of_shift hmem)⟩

/-- Where every stage carries a count from `n` on, the view has reached `n`. -/
theorem Ahead.le_seen (h : Ahead n j L) (hj : L.chain.length ≤ j) : n ≤ L.seen := by
  obtain ⟨-, counts, hc, hn⟩ := h
  rw [List.take_of_length_le (hc.length_eq.trans_le hj)] at hn
  exact hn _ (List.mem_of_getLast? hc.last)

/-- Where a stage still carries a count up to `n`, the view, which is no newer, has not passed `n`. -/
theorem Behind.seen_le (h : Behind n j L) (hj : j < L.chain.length) : L.seen ≤ n := by
  obtain ⟨counts, hc, hn⟩ := h
  refine hn _ (List.mem_of_getLast? ?_)
  rw [List.getLast?_drop, if_neg (by rw [hc.length_eq]; omega), hc.last]

/-! ## Runs -/

theorem Run.published_le (h : Run es L K) : L.published ≤ K.published := by
  induction h with
  | nil => exact le_rfl
  | cons _ hstep _ ih => exact hstep.published_le.trans ih

theorem Run.seen_le (h : Run es L K) : L.seen ≤ K.seen := by
  induction h with
  | nil => exact le_rfl
  | cons _ hstep _ ih => exact hstep.seen_le.trans ih

theorem Run.length_eq (h : Run es L K) : K.chain.length = L.chain.length := by
  induction h with
  | nil => rfl
  | cons _ hstep _ ih => exact ih.trans hstep.length_eq

theorem Run.ok_start (h : Run es L K) : L.Ok := by
  cases h <;> assumption

/-- Without an edge of the source's clock the cursor stays. -/
theorem Run.published_eq (h : Run es L K) (hes : ∀ e ∈ es, e.isSampling = true) : K.published = L.published := by
  induction h with
  | nil => rfl
  | cons _ hstep _ ih =>
    obtain ⟨he, hes⟩ := List.forall_mem_cons.1 hes
    refine (ih hes).trans ?_
    cases hstep with
    | source => cases he
    | sampling => rfl

theorem Run.append {es' : List LaneEdge} (h : Run (es ++ es') L K) : ∃ M, Run es L M ∧ Run es' M K := by
  induction es generalizing L with
  | nil => exact ⟨L, .nil h.ok_start, h⟩
  | cons e es ih =>
    cases h with
    | cons hok hstep hrun =>
      obtain ⟨M, h1, h2⟩ := ih hrun
      exact ⟨M, .cons hok hstep h1, h2⟩

/-! ## The bounds of R262 -/

/-- The first sampling edge after a count is published makes the lane fresh for it, even where its sample is late. -/
theorem Ahead.start (hok : L.Ok) (hn : n ≤ L.published) (late : Bool) : Ahead n 0 (L.shift late) := by
  obtain ⟨counts, hc⟩ := hok.carries
  obtain ⟨m, hc', -⟩ := hc.shift hok late
  exact ⟨⟨hn, fun _ => rfl⟩, _, hc', by simp⟩

/-- Where its sample is not late, it takes the published count in. -/
theorem Ahead.start_present (hok : L.Ok) (hn : n ≤ L.published) : Ahead n 1 (L.shift false) := by
  obtain ⟨counts, hc⟩ := hok.carries
  obtain ⟨m, hc', hm, -⟩ := hc.shift hok false
  refine ⟨⟨hn, fun _ => rfl⟩, _, hc', fun c hmem => ?_⟩
  rcases mem_take_succ_of_shift hmem with rfl | hmem
  · exact hm rfl ▸ hn
  · simp at hmem

/-- After `N + 1` sampling edges the view has reached what was published at the start. -/
theorem Run.reaches (h : Run es L K) (hn : n ≤ L.published) (hes : L.chain.length + 1 ≤ samplings es) : n ≤ K.seen := by
  induction h with
  | nil => cases hes
  | cons hok hstep hrun ih =>
    cases hstep with
    | source hp =>
      rw [samplings_source] at hes
      exact ih (hn.trans (Step.source hp).published_le) hes
    | sampling late =>
      rw [samplings_sampling] at hes
      refine ((Ahead.start hok hn late).run hrun).le_seen ?_
      rw [hrun.length_eq, Step.length_eq (.sampling late), Nat.zero_add]
      exact Nat.le_of_succ_le_succ hes

/-- After a sampling edge whose sample is not late and `N - 1` more the view has reached what was published before. -/
theorem Run.reaches_present {es' : List LaneEdge} (h : Run (es ++ .sampling false :: es') L K)
    (hes : L.chain.length ≤ samplings es' + 1) : L.published ≤ K.seen := by
  obtain ⟨M, hbefore, hafter⟩ := h.append
  cases hafter with
  | cons hok hstep hrun =>
    cases hstep
    refine ((Ahead.start_present hok hbefore.published_le).run hrun).le_seen ?_
    rw [hrun.length_eq, Step.length_eq (.sampling false), hbefore.length_eq, Nat.add_comm]
    exact hes

/-- Before the `N`-th sampling edge the view has not passed what was published at the start. -/
theorem Run.seen_le_published (h : Run es L K) (hes : samplings es < L.chain.length) : K.seen ≤ L.published := by
  obtain ⟨counts, hc⟩ := h.ok_start.carries
  have hstart : Behind L.published 0 L := ⟨counts, hc, hc.bounded⟩
  refine (hstart.run h).seen_le ?_
  rw [h.length_eq, Nat.zero_add]
  exact hes

/-- Before the `N`-th sampling edge a chain whose stages were all alike still shows the old value. -/
theorem Run.view_eq (h : Run es L K) (hes : samplings es < L.chain.length)
    (hsame : ∀ g ∈ L.chain, g = lastStage L.chain) : K.seen = L.seen := by
  obtain ⟨counts, hc⟩ := h.ok_start.carries
  have hold : ∀ c ∈ counts, c ≤ L.seen := by
    intro c hmem
    have hcode : grayOfCount c = lastStage L.chain := hsame _ (hc.codes ▸ List.mem_map_of_mem hmem)
    have hview : BitVec.ofNat 64 c = BitVec.ofNat 64 L.seen := by
      rw [← gray2bin_grayOfCount, hcode, h.ok_start.chainOk.view]
    have hge := getLast?_le hc.falling hc.last c hmem
    have hle := hc.bounded c hmem
    have hclose := h.ok_start.close
    exact (ofNat_inj_of_close hge (by omega) hview).le
  have hstart : Behind L.seen 0 L := ⟨counts, hc, hold⟩
  refine le_antisymm ((hstart.run h).seen_le ?_) h.seen_le
  rw [h.length_eq, Nat.zero_add]
  exact hes

end reach

end Lane

end Sys2Proof.Safety
end

section
/-! SUPPORT. The two cursors of a running `ASYNC` block as lanes, under any edges of its two clocks, and the bounds of R262 for
each. -/

namespace Sys2Proof.Safety

open Sys2Proof.Machine

/-- `head` on its way to `head_c` (R194). -/
def headLane (r : AsyncRegs) (g : Ghost) : Lane where
  cur := r.headGray
  prev := r.headGrayPrev
  chain := r.hs
  published := g.pushed
  seen := g.hc

/-- `tail` on its way to `tail_p` (R195). -/
def tailLane (r : AsyncRegs) (g : Ghost) : Lane where
  cur := r.tailGray
  prev := r.tailGrayPrev
  chain := r.ts
  published := g.popped
  seen := g.tp

/-- What an edge of `wclk` or `rclk` is to the lane of `head`. -/
def headEdge : Input → LaneEdge
  | .rclk _ late => .sampling late
  | _ => .source

/-- What an edge of `wclk` or `rclk` is to the lane of `tail`. -/
def tailEdge : Input → LaneEdge
  | .wclk _ late => .sampling late
  | _ => .source

section lanes
variable {i : Instr} {s p : State} {r : AsyncRegs} (h : BlockInv s) (hx : s.crossing = .async r)
include h hx

theorem BlockInv.headLane_ok : (headLane r s.ghost).Ok := by
  obtain ⟨h1, h2, h3, h4, h5⟩ := h.counts
  have hok := h.crossingOk
  rw [hx] at hok
  obtain ⟨hhead, -, hprev, -, -, -, -, hhs⟩ := hok
  exact ⟨hhead, hprev, hhs, show s.ghost.pushed - s.ghost.hc < 2 ^ 64 by omega⟩

theorem BlockInv.tailLane_ok : (tailLane r s.ghost).Ok := by
  obtain ⟨h1, h2, h3, h4, h5⟩ := h.counts
  have hok := h.crossingOk
  rw [hx] at hok
  obtain ⟨-, htail, -, hprev, -, -, hts, -⟩ := hok
  exact ⟨htail, hprev, hts, show s.ghost.popped - s.ghost.tp < 2 ^ 64 by omega⟩

/-- The producer's command of an edge of `wclk` publishes `head` and leaves the lane of `tail` (R146). -/
theorem producerStep_lanes (hp : ProducerStep (withAsync r.noteWclk s) i p) :
    ∃ r', p.crossing = .async r' ∧ Lane.Step .source (headLane r s.ghost) (headLane r' p.ghost) ∧
      tailLane r' p.ghost = tailLane r s.ghost := by
  cases hp with
  | responds =>
    have hgray := (h.headLane_ok hx).curIsPublished
    exact ⟨_, rfl, .source_of_cur (.inl rfl) hgray rfl ⟨rfl, rfl⟩ rfl, rfl⟩
  | enqueues =>
    have hgray : bin2gray (s.head + 1) = grayOfCount (s.ghost.pushed + 1) := congrArg bin2gray (head_add_one h)
    exact ⟨_, rfl, .source_of_cur (.inr rfl) hgray rfl ⟨rfl, rfl⟩ rfl, rfl⟩

/-- The consumer's command of an edge of `rclk` publishes `tail` and leaves the lane of `head` (R171). -/
theorem consumerStep_lanes (hc : ConsumerStep (withAsync r.noteRclk s) i p) :
    ∃ r', p.crossing = .async r' ∧ Lane.Step .source (tailLane r s.ghost) (tailLane r' p.ghost) ∧
      headLane r' p.ghost = headLane r s.ghost := by
  cases hc with
  | responds =>
    have hgray := (h.tailLane_ok hx).curIsPublished
    exact ⟨_, rfl, .source_of_cur (.inl rfl) hgray rfl ⟨rfl, rfl⟩ rfl, rfl⟩
  | dequeues =>
    have hgray : bin2gray (s.tail + 1) = grayOfCount (s.ghost.popped + 1) := congrArg bin2gray (tail_add_one h)
    exact ⟨_, rfl, .source_of_cur (.inr rfl) hgray rfl ⟨rfl, rfl⟩ rfl, rfl⟩

end lanes

/-- What an edge of either clock does to a running block: to each cursor's lane its own edge, and to the parameters nothing. -/
structure EdgeStep (x : Input) (r r' : AsyncRegs) (s t : State) : Prop where
  crossing : t.crossing = .async r'
  life : t.life = s.life
  dataW : t.dataW = s.dataW
  capacity : t.capacity = s.capacity
  head : Lane.Step (headEdge x) (headLane r s.ghost) (headLane r' t.ghost)
  tail : Lane.Step (tailEdge x) (tailLane r s.ghost) (tailLane r' t.ghost)

section edges
variable {s : State} {r : AsyncRegs} (h : BlockInv s) (hrun : s.life = .running) (hx : s.crossing = .async r)
include h hrun hx

theorem wclkEdge_step {pc : Nat} (hpc : pc < 2 ^ Format.width s.dataW .pc) (late : Bool) :
    ∃ t r', wclkEdge pc late s = .next t ∧ EdgeStep (.wclk pc late) r r' s t := by
  obtain ⟨p, hp⟩ := exec_decodePC_completes (s := withAsync r.noteWclk s) hrun pc
  obtain ⟨r', hr', hhead, htail⟩ := producerStep_lanes h hx (producerStep_of_exec (agent_decodePC _ _) hp)
  obtain ⟨hcap, -, hw, -, hlife, -, -⟩ := exec_decodePC_frame hp
  refine ⟨_, _, wclkEdge_eq_next.2 ⟨hpc, r, p, r', hx, hp, hr', rfl⟩, rfl, hlife, hw, hcap, hhead, ?_⟩
  exact htail ▸ .sampling late

theorem rclkEdge_step {cc : Nat} (hcc : cc < 2 ^ Format.width s.dataW .cc) (late : Bool) :
    ∃ t r', rclkEdge cc late s = .next t ∧ EdgeStep (.rclk cc late) r r' s t := by
  obtain ⟨c, hc⟩ := exec_decodeCC_completes (s := withAsync r.noteRclk s) hrun cc
  obtain ⟨r', hr', htail, hhead⟩ := consumerStep_lanes h hx (consumerStep_of_exec (agent_decodeCC _) hc)
  obtain ⟨hcap, -, hw, -, -, hlife, -, -⟩ := exec_decodeCC_frame hc
  refine ⟨_, _, rclkEdge_eq_next.2 ⟨hcc, r, c, r', hx, hc, hr', rfl⟩, rfl, hlife, hw, hcap, ?_, htail⟩
  exact hhead ▸ .sampling late

theorem asyncEdge_step {x : Input} (hedge : asyncEdge s.dataW x = true) :
    ∃ t r', runInput x s = .next t ∧ EdgeStep x r r' s t := by
  cases x with
  | wclk pc late => exact wclkEdge_step h hrun hx (of_decide_eq_true hedge) late
  | rclk cc late => exact rclkEdge_step h hrun hx (of_decide_eq_true hedge) late
  | _ => cases hedge

/-- Edges of the two clocks in any order complete, and each cursor's lane runs through its own of them (R260). -/
theorem feed_asyncEdges {xs : List Input} (hedges : ∀ x ∈ xs, asyncEdge s.dataW x = true) :
    ∃ t r', feed xs s = .next t ∧ BlockInv t ∧ t.capacity = s.capacity ∧ t.crossing = .async r' ∧
      Lane.Run (xs.map headEdge) (headLane r s.ghost) (headLane r' t.ghost) ∧
      Lane.Run (xs.map tailEdge) (tailLane r s.ghost) (tailLane r' t.ghost) := by
  induction xs generalizing s r with
  | nil => exact ⟨s, r, rfl, h, rfl, hx, .nil (h.headLane_ok hx), .nil (h.tailLane_ok hx)⟩
  | cons x xs ih =>
    obtain ⟨hedge, hedges⟩ := List.forall_mem_cons.1 hedges
    obtain ⟨u, q, e, hstep⟩ := asyncEdge_step h hrun hx hedge
    obtain ⟨t, r', e', ht, hcap, hx', hhead, htail⟩ :=
      ih (h.runInput e) (hstep.life.trans hrun) hstep.crossing (hstep.dataW ▸ hedges)
    exact ⟨t, r', andThen_eq_next.2 ⟨u, e, e'⟩, ht, hcap.trans hstep.capacity, hx',
      .cons (h.headLane_ok hx) hstep.head hhead, .cons (h.tailLane_ok hx) hstep.tail htail⟩

end edges

/-! ## The edges that sample -/

theorem samplings_headEdge (xs : List Input) : Lane.samplings (xs.map headEdge) = xs.countP isRclk := by
  rw [Lane.samplings, List.countP_map]
  exact List.countP_congr fun x _ => by cases x <;> rfl

theorem samplings_tailEdge (xs : List Input) : Lane.samplings (xs.map tailEdge) = xs.countP isWclk := by
  rw [Lane.samplings, List.countP_map]
  exact List.countP_congr fun x _ => by cases x <;> rfl

/-- An edge of the clocks of `ASYNC` that is none of `wclk` samples `head`. -/
theorem headEdge_isSampling {dw : Nat} {x : Input} (hedge : asyncEdge dw x = true) (hx : isWclk x = false) :
    (headEdge x).isSampling = true := by
  cases x with
  | rclk => rfl
  | wclk => cases hx
  | _ => cases hedge

theorem tailEdge_isSampling {dw : Nat} {x : Input} (hedge : asyncEdge dw x = true) (hx : isRclk x = false) :
    (tailEdge x).isSampling = true := by
  cases x with
  | wclk => rfl
  | rclk => cases hx
  | _ => cases hedge

/-- Settles O53: the bounds are those of the lane of `head` (`Lane.Run.reaches`, `Lane.Run.reaches_present`,
`Lane.Run.seen_le_published`, `Lane.Run.view_eq`), which runs through the edges of `rclk` and `wclk` as its own
(`feed_asyncEdges`). -/
theorem headCrossesInBoundedEdges : Obligations.HeadCrossesInBoundedEdges := by
  intro s r xs h hrun hx hedges
  obtain ⟨t, r', e, ht, -, -, hlane, -⟩ := feed_asyncEdges h hrun hx hedges
  refine ⟨t, e, ?latest, ?present, ?earliest⟩
  case latest =>
    intro hcount
    have hreached : s.ghost.pushed ≤ t.ghost.hc := hlane.reaches le_rfl (hcount.trans (samplings_headEdge xs).ge)
    refine ⟨hreached, fun hpop => Bool.eq_false_iff.2 (ht.empty_iff.not.2 (hpop.trans_le hreached).ne'), fun hstill => ?_⟩
    have hpushed : t.ghost.pushed = s.ghost.pushed := hlane.published_eq (List.forall_mem_map.2 fun x hmem =>
      headEdge_isSampling (hedges x hmem) (hstill x hmem))
    rw [ht.headCIsHC, h.headIsPushed, le_antisymm (hpushed ▸ ht.hcLePushed) hreached]
  case present =>
    rintro ys cc zs rfl - hcount
    rw [List.map_append, List.map_cons] at hlane
    exact hlane.reaches_present (hcount.trans_eq (congrArg (· + 1) (samplings_headEdge zs).symm))
  case earliest =>
    intro hcount
    have hcount := (samplings_headEdge xs).trans_lt hcount
    refine ⟨hlane.seen_le_published hcount, fun hsame => ?_⟩
    rw [ht.headCIsHC, h.headCIsHC]
    exact congrArg _ (hlane.view_eq hcount hsame)

/-- Settles O54: the same of the lane of `tail`. -/
theorem tailCrossesInBoundedEdges : Obligations.TailCrossesInBoundedEdges := by
  intro s r xs h hrun hx hedges
  obtain ⟨t, r', e, ht, hcap, -, -, hlane⟩ := feed_asyncEdges h hrun hx hedges
  have hdepth : depth t = depth s := congrArg BitVec.toNat hcap
  refine ⟨t, e, ?latest, ?present, ?earliest⟩
  case latest =>
    intro hcount
    have hreached : s.ghost.popped ≤ t.ghost.tp := hlane.reaches le_rfl (hcount.trans (samplings_tailEdge xs).ge)
    refine ⟨hreached, fun hpush => Bool.eq_false_iff.2 (ht.full_iff.not.2 ?_), fun hstill => ?_⟩
    · rw [hdepth]
      omega
    · have hpopped : t.ghost.popped = s.ghost.popped := hlane.published_eq (List.forall_mem_map.2 fun x hmem =>
        tailEdge_isSampling (hedges x hmem) (hstill x hmem))
      rw [ht.tailPIsTP, h.tailIsPopped, le_antisymm (hpopped ▸ ht.tpLePopped) hreached]
  case present =>
    rintro ys pc zs rfl - hcount
    rw [List.map_append, List.map_cons] at hlane
    exact hlane.reaches_present (hcount.trans_eq (congrArg (· + 1) (samplings_tailEdge zs).symm))
  case earliest =>
    intro hcount
    have hcount := (samplings_tailEdge xs).trans_lt hcount
    refine ⟨hlane.seen_le_published hcount, fun hsame => ?_⟩
    rw [ht.tailPIsTP, h.tailPIsTP]
    exact congrArg _ (hlane.view_eq hcount hsame)

end Sys2Proof.Safety
end
